-- ==== Sys2Proof/Word.lean ====
section
/-!
DEFINITION. The widths of the LPW block (rules R9, R10). All values are unsigned.
-/

namespace Sys2Proof

/-- A byte: 8 bits (R10). -/
abbrev Byte := BitVec 8

/-- A word of the identity record: 16 bits, `WORD_W` (R7, R10). -/
abbrev IdWord := BitVec 16

/-- A word in the context of SHA-256: 32 bits (R10, R181). -/
abbrev ShaWord := BitVec 32

/-- A command word, `CMD_W` = 32 bits (R9, R72). -/
abbrev CmdWord := BitVec 32

/-- A response word, `RESP_W` = 32 bits (R9, R71). -/
abbrev RespWord := BitVec 32

end Sys2Proof
end

