-- ==== Sys2Proof/Syntax.lean ====
section
/-!
DEFINITION. The twelve commands of the block (R73, opcode_table.json), one constructor per row, and the three things the
host can put on the ports.
-/

namespace Sys2Proof

/-- A command. An operand has the width its field has in the command word (R73, R77). -/
inductive Instr where
  /-- `NOP` (R92). -/
  | nop
  /-- `RST`, soft reset (R93). -/
  | rst
  /-- `SETMODE mode` (R94); `mode` = 3 is no legal command. -/
  | setmode (mode : BitVec 2)
  /-- `RDS sel`, read status (R95); `sel` = 3 is no legal command. -/
  | rds (sel : BitVec 2)
  /-- `LDW imm16`, load one identity word (R112). -/
  | ldw (imm16 : BitVec 16)
  /-- `RESOLVE`, check the count and fix the byte order (R113). -/
  | resolve
  /-- `RDW idx`, read a loaded word as loaded (R121). -/
  | rdw (idx : BitVec 8)
  /-- `RDR idx`, read a word of the resolved record (R122). -/
  | rdr (idx : BitVec 8)
  /-- `PWB imm8`, push one password byte (R144). -/
  | pwb (imm8 : BitVec 8)
  /-- `RDT idx`, read one byte of the translated password (R147). -/
  | rdt (idx : BitVec 6)
  /-- `HASH`, compute the digest (R166). -/
  | hash
  /-- `RDD idx`, read one digest byte (R168). -/
  | rdd (idx : BitVec 5)
deriving DecidableEq, Repr

/-- One thing the host does to the block's inputs (R70). -/
inductive HostInput where
  /-- The host presents a command word on `cmd` (R70, R72). -/
  | cmd (c : CmdWord)
  /-- `rst_n` goes to 0 and returns to 1 (R70, R230). -/
  | hwReset
deriving DecidableEq, Repr

end Sys2Proof
end

