-- ==== Sys2Proof/WellFormed.lean ====
section
/-!
DEFINITION. Which terms of `Instr` are commands of the block: R74 item 4, the only constraint an operand's width does not
already carry.
-/

namespace Sys2Proof

/-- R74 item 4 (opcode_table.json's two constraints): the `mode` of `SETMODE` and the `sel` of `RDS` are not 3. -/
def Instr.wf : Instr → Bool
  | .setmode mode => mode != 3#2
  | .rds sel => sel != 3#2
  | .nop => true
  | .rst => true
  | .ldw _ => true
  | .resolve => true
  | .rdw _ => true
  | .rdr _ => true
  | .pwb _ => true
  | .rdt _ => true
  | .hash => true
  | .rdd _ => true

end Sys2Proof
end

