-- ==== Sys2Proof/Decode.lean ====
section
/-!
DEFINITION. The decoder, total on all 2^32 words (R72 to R74), and after it the encoder (R78). A word the decoder refuses is
an illegal command word (R75).
-/

namespace Sys2Proof

/-- `op`, bits 31:24 (R72). -/
def opOf (c : CmdWord) : BitVec 8 := c.extractLsb' 24 8

/-- `rsv`, bits 23:16 (R72). -/
def rsvOf (c : CmdWord) : BitVec 8 := c.extractLsb' 16 8

/-- `arg`, bits 15:0 (R72). -/
def argOf (c : CmdWord) : BitVec 16 := c.extractLsb' 0 16

/-- R74 item 3: no bit of `arg` is set outside the mask. -/
def argWithin (mask arg : BitVec 16) : Bool := arg &&& ~~~mask == 0#16

/-- The twelve opcodes (R73), each with its `ARGMASK` (R74 item 3). -/
def argMasks : List (BitVec 8 × BitVec 16) :=
  [(0x00#8, 0x0000#16),    -- NOP
   (0x01#8, 0x0000#16),    -- RST
   (0x02#8, 0x0003#16),    -- SETMODE
   (0x03#8, 0x0003#16),    -- RDS
   (0x10#8, 0xFFFF#16),    -- LDW
   (0x11#8, 0x0000#16)] ++ -- RESOLVE
  [(0x12#8, 0x00FF#16),    -- RDW
   (0x13#8, 0x00FF#16),    -- RDR
   (0x20#8, 0x00FF#16),    -- PWB
   (0x21#8, 0x003F#16),    -- RDT
   (0x30#8, 0x0000#16),    -- HASH
   (0x31#8, 0x001F#16)]    -- RDD

/-- `ARGMASK` (R74 item 3); `none` for an opcode that is none of the twelve (R74 item 1). -/
def argMask? (op : BitVec 8) : Option (BitVec 16) := argMasks.lookup op

/-- The command an opcode names with this `arg` (R73, R77): the operand is taken straight from its field of `arg`. -/
def commandOf (op : BitVec 8) (arg : BitVec 16) : Option Instr :=
  if op = 0x00#8 then some .nop
  else if op = 0x01#8 then some .rst
  else if op = 0x02#8 then some (.setmode (arg.extractLsb' 0 2))
  else if op = 0x03#8 then some (.rds (arg.extractLsb' 0 2))
  else if op = 0x10#8 then some (.ldw arg)
  else if op = 0x11#8 then some .resolve
  else if op = 0x12#8 then some (.rdw (arg.extractLsb' 0 8))
  else if op = 0x13#8 then some (.rdr (arg.extractLsb' 0 8))
  else if op = 0x20#8 then some (.pwb (arg.extractLsb' 0 8))
  else if op = 0x21#8 then some (.rdt (arg.extractLsb' 0 6))
  else if op = 0x30#8 then some .hash
  else if op = 0x31#8 then some (.rdd (arg.extractLsb' 0 5))
  else none

/-- R74: a command word is legal exactly when these four conditions hold. -/
def legal (c : CmdWord) : Bool :=
  match argMask? (opOf c) with
  | none => false
  | some mask =>
    rsvOf c == 0x00#8
      && argWithin mask (argOf c)
      && !((opOf c == 0x02#8 || opOf c == 0x03#8) && c.extractLsb' 0 2 == 3#2)

/-- The decoder (R72, R74, R81): a pure function of the 32 bits; `none` is an illegal word (R75). -/
def decode (c : CmdWord) : Option Instr :=
  if legal c then commandOf (opOf c) (argOf c) else none

/-- The opcode of a command (R73). -/
def opcode : Instr → BitVec 8
  | .nop => 0x00#8
  | .rst => 0x01#8
  | .setmode _ => 0x02#8
  | .rds _ => 0x03#8
  | .ldw _ => 0x10#8
  | .resolve => 0x11#8
  | .rdw _ => 0x12#8
  | .rdr _ => 0x13#8
  | .pwb _ => 0x20#8
  | .rdt _ => 0x21#8
  | .hash => 0x30#8
  | .rdd _ => 0x31#8

/-- The `arg` field of a command: its operand in the low bits, every other bit 0 (R73, R77). -/
def argField : Instr → BitVec 16
  | .nop => 0#16
  | .rst => 0#16
  | .setmode mode => mode.setWidth 16
  | .rds sel => sel.setWidth 16
  | .ldw imm16 => imm16
  | .resolve => 0#16
  | .rdw idx => idx.setWidth 16
  | .rdr idx => idx.setWidth 16
  | .pwb imm8 => imm8.setWidth 16
  | .rdt idx => idx.setWidth 16
  | .hash => 0#16
  | .rdd idx => idx.setWidth 16

/-- `enc(op, arg) = (op << 24) | arg` (R78), with `rsv` = 0x00 between them (R72). -/
def enc (op : BitVec 8) (arg : BitVec 16) : CmdWord := (op.setWidth 32 <<< 24) ||| arg.setWidth 32

/-- The command word of a command (R78). -/
def encode (i : Instr) : CmdWord := enc (opcode i) (argField i)

/-- The mnemonic of a command (R73). -/
def mnemonic : Instr → String
  | .nop => "NOP"
  | .rst => "RST"
  | .setmode _ => "SETMODE"
  | .rds _ => "RDS"
  | .ldw _ => "LDW"
  | .resolve => "RESOLVE"
  | .rdw _ => "RDW"
  | .rdr _ => "RDR"
  | .pwb _ => "PWB"
  | .rdt _ => "RDT"
  | .hash => "HASH"
  | .rdd _ => "RDD"

/-- One row of R74's second form, "mask and match over the whole word". -/
structure MaskMatch where
  mnemonic : String
  mask : CmdWord
  value : CmdWord
  /-- Whether the row adds "and `c[1:0] != 3`". -/
  notThree : Bool
deriving DecidableEq, Repr

/-- Whether a word falls under a row. -/
def MaskMatch.takes (r : MaskMatch) (c : CmdWord) : Bool :=
  c &&& r.mask == r.value && !(r.notThree && c.extractLsb' 0 2 == 3#2)

/-- The twelve rows of R74's second form. -/
def maskMatchRows : List MaskMatch :=
  [⟨"NOP", 0xFFFFFFFF#32, 0x00000000#32, false⟩,
   ⟨"RST", 0xFFFFFFFF#32, 0x01000000#32, false⟩,
   ⟨"SETMODE", 0xFFFFFFFC#32, 0x02000000#32, true⟩,
   ⟨"RDS", 0xFFFFFFFC#32, 0x03000000#32, true⟩,
   ⟨"LDW", 0xFFFF0000#32, 0x10000000#32, false⟩,
   ⟨"RESOLVE", 0xFFFFFFFF#32, 0x11000000#32, false⟩] ++
  [⟨"RDW", 0xFFFFFF00#32, 0x12000000#32, false⟩,
   ⟨"RDR", 0xFFFFFF00#32, 0x13000000#32, false⟩,
   ⟨"PWB", 0xFFFFFF00#32, 0x20000000#32, false⟩,
   ⟨"RDT", 0xFFFFFFC0#32, 0x21000000#32, false⟩,
   ⟨"RDD", 0xFFFFFFE0#32, 0x31000000#32, false⟩,
   ⟨"HASH", 0xFFFFFFFF#32, 0x30000000#32, false⟩]

/-- What the decoder reads from an instruction of the opcode table: one 32-bit word (R72), the bits above `nbits` zero. -/
def decodeTableWord (nbits w : Nat) : Option Instr :=
  if w % 2 ^ nbits < 2 ^ 32 then decode (BitVec.ofNat 32 (w % 2 ^ nbits)) else none

end Sys2Proof
end

