-- ==== Sys2Proof/Config.lean ====
section
/-!
DEFINITION. The constants of rule R7, the one open parameter of the spec (`DIGIT_ORDER`, R8), and the free values:
opaque constants for what the spec leaves unspecified.
-/

namespace Sys2Proof

/-- `DIGIT_ORDER` (R8, R143): how the ten digit characters are laid onto the byte values 2 to 11. -/
inductive DigitOrder where
  /-- `0` gives 2, ..., `9` gives 11: the value the spec takes for the hardware. -/
  | ascending
  /-- `1` gives 2, ..., `9` gives 10, `0` gives 11: the alternative a model must be able to select. -/
  | keyboard
deriving DecidableEq, Repr

/-- The configuration of a block: "the only open parameter of the spec" (R8). -/
structure Config where
  digitOrder : DigitOrder
deriving DecidableEq, Repr

/-- The configuration the spec takes for the hardware (R8). DESIGN CHOICE of the spec, log 5. -/
def Config.hardware : Config := { digitOrder := .ascending }

/-- `N_WORDS` (R7). -/
def Config.nWords : Nat := 256
/-- `TP_LEN` (R7). -/
def Config.tpLen : Nat := 64
/-- `TRUNC_LEN` (R7): bytes kept of the first hash. -/
def Config.truncLen : Nat := 12
/-- `PROBE1_VAL` (R7): looked for in word 47. -/
def Config.probe1Val : Byte := 0x80#8
/-- `PROBE2_VAL` (R7): looked for in word 255. -/
def Config.probe2Val : Byte := 0xA5#8

/-- FREE VALUE (log 6): what the storage of `RAW` holds after the n-th pulse of `rst_n`; R230 says "unspecified". -/
opaque Config.rawAfterReset : Nat → Vector IdWord 256

/-- FREE VALUE (log 6): what the storage of `DIGEST` holds after the n-th pulse of `rst_n`; R230 says "unspecified". -/
opaque Config.digestAfterReset : Nat → Vector Byte 32

/-- FREE VALUE (log 7): `RES(i)` while the record is not resolved; R27 says "undefined", and no command reads it. -/
opaque Config.resUnresolved : Fin 256 → IdWord

end Sys2Proof
end

