-- ==== Sys2Proof/Machine/Alphabet.lean ====
section
/-!
DEFINITION. The password alphabet: case folding (R141) and the translation table `XLAT` (R142) with its two digit runs
(R143).
-/

namespace Sys2Proof.Machine

/-- `fold(b)` (R141): `A`..`Z` to `a`..`z`, no other byte. -/
def fold (b : Byte) : Byte := if 0x41#8 ≤ b ∧ b ≤ 0x5A#8 then b + 0x20#8 else b

/-- The rows of R142 for the letters, the semicolon and the space: folded byte, mapped byte. -/
def letterRows : List (Byte × Byte) :=
  -- q w e r t y u i o p
  [(0x71#8, 16#8), (0x77#8, 17#8), (0x65#8, 18#8), (0x72#8, 19#8), (0x74#8, 20#8),
   (0x79#8, 21#8), (0x75#8, 22#8), (0x69#8, 23#8), (0x6F#8, 24#8), (0x70#8, 25#8)] ++
  -- a s d f g h j k l ;
  [(0x61#8, 30#8), (0x73#8, 31#8), (0x64#8, 32#8), (0x66#8, 33#8), (0x67#8, 34#8),
   (0x68#8, 35#8), (0x6A#8, 36#8), (0x6B#8, 37#8), (0x6C#8, 38#8), (0x3B#8, 39#8)] ++
  -- z x c v b n m
  [(0x7A#8, 44#8), (0x78#8, 45#8), (0x63#8, 46#8), (0x76#8, 47#8), (0x62#8, 48#8),
   (0x6E#8, 49#8), (0x6D#8, 50#8)] ++
  -- space
  [(0x20#8, 57#8)]

/-- The ten digit rows of R142, for the digit order of R143. -/
def digitRows : DigitOrder → List (Byte × Byte)
  | .ascending =>   -- `0` gives 2, ..., `9` gives 11
    [(0x30#8, 2#8), (0x31#8, 3#8), (0x32#8, 4#8), (0x33#8, 5#8), (0x34#8, 6#8),
     (0x35#8, 7#8), (0x36#8, 8#8), (0x37#8, 9#8), (0x38#8, 10#8), (0x39#8, 11#8)]
  | .keyboard =>    -- `1` gives 2, ..., `9` gives 10, `0` gives 11
    [(0x31#8, 2#8), (0x32#8, 3#8), (0x33#8, 4#8), (0x34#8, 5#8), (0x35#8, 6#8),
     (0x36#8, 7#8), (0x37#8, 8#8), (0x38#8, 9#8), (0x39#8, 10#8), (0x30#8, 11#8)]

/-- `XLAT(c)` (R142) of a folded byte; `none` when `c` is not in the table. -/
def xlat (d : DigitOrder) (c : Byte) : Option Byte := (digitRows d ++ letterRows).lookup c

/-- The mapped byte of a password byte: fold, then look up; `none` for a byte that is deleted (R140, R144). -/
def mapByte (d : DigitOrder) (b : Byte) : Option Byte := xlat d (fold b)

/-- The mapped sequence `m` of a whole password (R148): recognised bytes mapped in order, the others deleted. -/
def mapPassword (d : DigitOrder) (p : List Byte) : List Byte := p.filterMap (mapByte d)

end Sys2Proof.Machine
end

