-- ==== Sys2Proof/Machine/State.lean ====
section
/-!
DEFINITION. The state of the block: the eleven items of R20, and beside them what the spec calls the parameters and ports of
a step (log 1). Plain data; no field is a function.
-/

namespace Sys2Proof.Machine

/-- The requested byte-order mode `MODE` (R25): 2 bits, value 3 is never held (log 10). -/
inductive Mode where
  /-- 0: infer from words 47 and 255. -/
  | detect
  /-- 1: no transformation. -/
  | native
  /-- 2: byte-swap every word. -/
  | reverse
deriving DecidableEq, Repr

/-- The resolved byte order `END` (R26): 2 bits. -/
inductive Order where
  /-- 0 `NONE`: no `RESOLVE` has completed since reset. -/
  | none
  /-- 1 `NATIVE`: words are used as loaded. -/
  | native
  /-- 2 `SWAPPED`: every word is used byte-swapped. -/
  | swapped
  /-- 3 `UNKNOWN`: detection was inconclusive. -/
  | unknown
deriving DecidableEq, Repr

/-- The four faults of the block (R200), with the codes 1 to 4 of `ERR`. They are recorded in `ERR` and the block goes on
accepting commands (R208), so they are part of the state and no `Machine.Fault` of a step. -/
inductive FaultKind where
  /-- Code 1 (R201): raised by `RESOLVE` when `WCNT` is not 256. -/
  | malformedRecord
  /-- Code 2 (R202): raised by `RESOLVE` in mode `DETECT` when both probes are inconclusive. -/
  | unknownEndianness
  /-- Code 3 (R203): raised by an illegal command word. -/
  | illegalCommand
  /-- Code 4 (R204): raised by a legal command whose precondition does not hold. -/
  | sequenceError
deriving DecidableEq, Repr

/-- The eleven items of R20, "and nothing else". -/
structure Block where
  /-- `RAW[0..255]` (R23): the identity record as loaded, before endianness correction. -/
  raw : Vector IdWord 256
  /-- `WCNT` (R24): how many identity words were offered, sticking at 257. -/
  wcnt : BitVec 9
  /-- `MODE` (R25). -/
  mode : Mode
  /-- `END` (R26). -/
  endn : Order
  /-- `TP[0..63]` (R28): the translated password, zero padded. -/
  tp : Vector Byte 64
  /-- `PLEN` (R29): how many mapped bytes `TP` holds. -/
  plen : BitVec 7
  /-- `TRUNC` (R31): a mapped byte was dropped because `TP` was full. -/
  trunc : Bool
  /-- `DIGEST[0..31]` (R32). -/
  digest : Vector Byte 32
  /-- `DVALID` (R33): `DIGEST` holds a completed digest. -/
  dvalid : Bool
  /-- `ZBYTE` (R34): the completed digest contains a zero byte. -/
  zbyte : Bool
  /-- `ERR` (R35): the first fault since reset; `none` is the spec's own code 0, "no fault since reset". -/
  err : Option FaultKind
deriving DecidableEq, Repr

/-- The state of the model: the block, and what a step takes and gives at the ports (log 1). -/
structure State extends Block where
  /-- The configuration (R8), a parameter no step writes (R20). -/
  cfg : Config
  /-- What the host is still to present at the ports, oldest first (R22, R61, R70, R230). -/
  inputs : List HostInput
  /-- The response words delivered so far, oldest first (R61, R70). -/
  resps : List RespWord
  /-- The MODEL's own counter (log 6): pulses of `rst_n` taken; it selects the free values of `Config` and nothing else. -/
  resets : Nat
deriving DecidableEq, Repr

/-- Why a step stops the machine: it never does. Every fault of the spec is recorded in `ERR` and the block goes on
accepting commands (R208), so this type has no constructor, nobody raises one, and that is exact (log 14). -/
inductive Fault
deriving DecidableEq, Repr

/-- Why the model has no meaning for an instruction. -/
inductive Refusal where
  /-- Raised by an arm of `exec` whose instruction has no meaning yet, by its mnemonic; no arm does now. Safe. -/
  | notModelled (mnemonic : String)
deriving DecidableEq, Repr

/-- The machine right after reset (R39). `RAW` and `DIGEST`, which R39 leaves unspecified, are all zero (DESIGN CHOICE,
logs 3 and 4); the configuration is the spec's (log 5); nothing is presented and nothing has been answered (log 2). -/
def State.reset : State where
  raw := Vector.replicate 256 0x0000#16
  wcnt := 0#9
  mode := .detect
  endn := .none
  tp := Vector.replicate 64 0x00#8
  plen := 0#7
  trunc := false
  digest := Vector.replicate 32 0x00#8
  dvalid := false
  zbyte := false
  err := none
  cfg := Config.hardware
  inputs := []
  resps := []
  resets := 0

end Sys2Proof.Machine
end

