-- ==== Sys2Proof/Machine/Flags.lean ====
section
/-!
DEFINITION. Every flag computation: the encodings of `MODE`, `END` and `ERR` (R25, R26, R35, R200), the status word `FLAGS`
(R36), the zero-byte flag (R167), what `RDS` reads (R95), the response word (R71, R91), and the phase view (R38).
-/

namespace Sys2Proof.Machine

/-- The 2 bits of `MODE` (R25). -/
def Mode.bits : Mode → BitVec 2
  | .detect => 0#2
  | .native => 1#2
  | .reverse => 2#2

/-- The 2 bits of `END` (R26). -/
def Order.bits : Order → BitVec 2
  | .none => 0#2
  | .native => 1#2
  | .swapped => 2#2
  | .unknown => 3#2

/-- The code of a fault (R200). -/
def FaultKind.code : FaultKind → BitVec 8
  | .malformedRecord => 1#8
  | .unknownEndianness => 2#8
  | .illegalCommand => 3#8
  | .sequenceError => 4#8

/-- The 8 bits of `ERR` (R35): 0 for no fault, else the fault's code. -/
def errCode : Option FaultKind → BitVec 8
  | none => 0#8
  | some f => f.code

/-- One bit of `FLAGS` in its place (R36). -/
def bitAt (v : Bool) (n : Nat) : BitVec 16 := (BitVec.ofBool v).setWidth 16 <<< n

/-- `FLAGS` (R36, R95): `MODE | (END << 2) | (DVALID << 4) | (ZBYTE << 5) | (TRUNC << 6)`. -/
def Block.flags (b : Block) : BitVec 16 :=
  b.mode.bits.setWidth 16 ||| (b.endn.bits.setWidth 16 <<< 2) ||| bitAt b.dvalid 4 ||| bitAt b.zbyte 5 ||| bitAt b.trunc 6

/-- What `RDS sel` reads (R95): 0 `flags`, 1 `wcnt`, 2 `plen`, the counters zero-extended; `none` for 3, which is illegal. -/
def Block.status? (b : Block) (sel : BitVec 2) : Option (BitVec 16) :=
  if sel = 0#2 then some b.flags
  else if sel = 1#2 then some (b.wcnt.setWidth 16)
  else if sel = 2#2 then some (b.plen.setWidth 16)
  else none

/-- `ZBYTE` of a digest (R167): at least one of its bytes is 0x00. -/
def hasZeroByte (d : Vector Byte 32) : Bool := d.toList.contains 0x00#8

/-- The response word (R71, R91): `(ERR' << 24) | (ok << 16) | data`. -/
def response (err : Option FaultKind) (ok : Bool) (data : BitVec 16) : RespWord :=
  ((errCode err).setWidth 32 <<< 24) ||| ((BitVec.ofBool ok).setWidth 32 <<< 16) ||| data.setWidth 32

/-- The phases of R38. -/
inductive PhaseName where
  | fault
  | loading
  | resolved
  | done
deriving DecidableEq, Repr

/-- The condition of a phase (R38), a view of the state. -/
def Block.inPhase (b : Block) : PhaseName → Bool
  | .fault => b.err.isSome
  | .loading => b.err.isNone && b.endn == .none
  | .resolved => b.err.isNone && (b.endn == .native || b.endn == .swapped) && !b.dvalid
  | .done => b.err.isNone && b.dvalid

end Sys2Proof.Machine
end

