-- ==== Sys2Proof/Machine/Operands.lean ====
section
/-!
DEFINITION. Every operand form and every view of stored data: bytes of an identity word and `bswap16` (R11, R53), the mode
operand (R25), the loaded check (R121), the resolved record `RES` (R27), the identity fields `FIELDS` (R161), read-back data
(R77).
-/

namespace Sys2Proof.Machine

/-- The low byte `w[7:0]` of an identity word (R11). -/
def lowByte (w : IdWord) : Byte := w.extractLsb' 0 8

/-- The high byte `w[15:8]` of an identity word (R11). -/
def highByte (w : IdWord) : Byte := w.extractLsb' 8 8

/-- `bswap16(w)` is `{w[7:0], w[15:8]}` (R53). -/
def bswap16 (w : IdWord) : IdWord := lowByte w ++ highByte w

/-- The mode operand of `SETMODE` (R25, R77); `none` for 3, which names no mode. -/
def modeOf? (mode : BitVec 2) : Option Mode :=
  if mode = 0#2 then some .detect
  else if mode = 1#2 then some .native
  else if mode = 2#2 then some .reverse
  else none

/-- The byte order the record resolved to is fixed (R26): `END` is `NATIVE` or `SWAPPED`. -/
def Block.resolved (b : Block) : Bool :=
  match b.endn with
  | .native => true
  | .swapped => true
  | .none => false
  | .unknown => false

/-- Word `idx` is loaded (R23, R121): `idx < min(WCNT, 256)`. -/
def Block.loaded (b : Block) (idx : BitVec 8) : Bool :=
  decide (idx.toNat < min b.wcnt.toNat Config.nWords)

/-- An identity word read in a given order (R27): byte-swapped when `SWAPPED`, as loaded when `NATIVE`; a free value in the
two orders for which R27 says "undefined" (log 7). -/
def resIn (o : Order) (raw : Vector IdWord 256) (i : Fin 256) : IdWord :=
  match o with
  | .swapped => bswap16 (raw[i])
  | .native => raw[i]
  | .none => Config.resUnresolved i
  | .unknown => Config.resUnresolved i

/-- `RES(i)` (R27), a view and not state. -/
def Block.res (b : Block) (i : Fin 256) : IdWord := resIn b.endn b.raw i

/-- The 30 word indices of the identity fields (R161): serial 10..19, then model 27..46, ascending. -/
def fieldIndices : List (Fin 256) :=
  [10, 11, 12, 13, 14, 15, 16, 17, 18, 19] ++
  [27, 28, 29, 30, 31, 32, 33, 34, 35, 36, 37, 38, 39, 40, 41, 42, 43, 44, 45, 46]

/-- The two bytes of a resolved word in the digest input: "first `r[7:0]`, then `r[15:8]`" (R54). -/
def wordBytes (r : IdWord) : List Byte := [lowByte r, highByte r]

/-- `FIELDS` (R161): the 60-byte serialisation of the identity fields. -/
def Block.fields (b : Block) : List Byte := fieldIndices.flatMap fun i => wordBytes (b.res i)

/-- Element `idx` of `RAW`; an 8-bit index names every element and no other (R58). -/
def Block.rawAt (b : Block) (idx : BitVec 8) : IdWord := b.raw[idx.toFin]

/-- `RES(idx)` for an index operand (R77, R122). -/
def Block.resAt (b : Block) (idx : BitVec 8) : IdWord := b.res idx.toFin

/-- Element `idx` of `TP`; a 6-bit index names every element and no other (R58). -/
def Block.tpAt (b : Block) (idx : BitVec 6) : Byte := b.tp[idx.toFin]

/-- Element `idx` of `DIGEST`; a 5-bit index names every element and no other (R58). -/
def Block.digestAt (b : Block) (idx : BitVec 5) : Byte := b.digest[idx.toFin]

end Sys2Proof.Machine
end

