-- ==== Sys2Proof/Machine/Sha256.lean ====
section
/-!
DEFINITION. The SHA-256 kernel of the digest engine, written from 44_sha256.md (R180 to R189), which the spec supplies from
general knowledge (log 15).
-/

namespace Sys2Proof.Machine

/-- `rotr(x, n)` (R181): rotate right. -/
def rotr (x : ShaWord) (n : Nat) : ShaWord := (x >>> n) ||| (x <<< (32 - n))

/-- `Ch(x, y, z)` (R182). -/
def ch (x y z : ShaWord) : ShaWord := (x &&& y) ^^^ (~~~x &&& z)

/-- `Maj(x, y, z)` (R182). -/
def maj (x y z : ShaWord) : ShaWord := (x &&& y) ^^^ (x &&& z) ^^^ (y &&& z)

/-- `BSIG0(x)` (R182). -/
def bsig0 (x : ShaWord) : ShaWord := rotr x 2 ^^^ rotr x 13 ^^^ rotr x 22

/-- `BSIG1(x)` (R182). -/
def bsig1 (x : ShaWord) : ShaWord := rotr x 6 ^^^ rotr x 11 ^^^ rotr x 25

/-- `SSIG0(x)` (R182). -/
def ssig0 (x : ShaWord) : ShaWord := rotr x 7 ^^^ rotr x 18 ^^^ (x >>> 3)

/-- `SSIG1(x)` (R182). -/
def ssig1 (x : ShaWord) : ShaWord := rotr x 17 ^^^ rotr x 19 ^^^ (x >>> 10)

/-- The 64 round constants `K[0..63]` (R183), eight a line as the rule prints them. -/
def roundConstants : List ShaWord :=
  [0x428a2f98#32, 0x71374491#32, 0xb5c0fbcf#32, 0xe9b5dba5#32, 0x3956c25b#32, 0x59f111f1#32, 0x923f82a4#32, 0xab1c5ed5#32] ++
  [0xd807aa98#32, 0x12835b01#32, 0x243185be#32, 0x550c7dc3#32, 0x72be5d74#32, 0x80deb1fe#32, 0x9bdc06a7#32, 0xc19bf174#32] ++
  [0xe49b69c1#32, 0xefbe4786#32, 0x0fc19dc6#32, 0x240ca1cc#32, 0x2de92c6f#32, 0x4a7484aa#32, 0x5cb0a9dc#32, 0x76f988da#32] ++
  [0x983e5152#32, 0xa831c66d#32, 0xb00327c8#32, 0xbf597fc7#32, 0xc6e00bf3#32, 0xd5a79147#32, 0x06ca6351#32, 0x14292967#32] ++
  [0x27b70a85#32, 0x2e1b2138#32, 0x4d2c6dfc#32, 0x53380d13#32, 0x650a7354#32, 0x766a0abb#32, 0x81c2c92e#32, 0x92722c85#32] ++
  [0xa2bfe8a1#32, 0xa81a664b#32, 0xc24b8b70#32, 0xc76c51a3#32, 0xd192e819#32, 0xd6990624#32, 0xf40e3585#32, 0x106aa070#32] ++
  [0x19a4c116#32, 0x1e376c08#32, 0x2748774c#32, 0x34b0bcb5#32, 0x391c0cb3#32, 0x4ed8aa4a#32, 0x5b9cca4f#32, 0x682e6ff3#32] ++
  [0x748f82ee#32, 0x78a5636f#32, 0x84c87814#32, 0x8cc70208#32, 0x90befffa#32, 0xa4506ceb#32, 0xbef9a3f7#32, 0xc67178f2#32]

/-- The eight words of a chaining value `H[0..7]`, and the eight working variables of R188. -/
structure HashState where
  a : ShaWord
  b : ShaWord
  c : ShaWord
  d : ShaWord
  e : ShaWord
  f : ShaWord
  g : ShaWord
  h : ShaWord
deriving DecidableEq, Repr

/-- The initial chaining value `HINIT[0..7]` (R184). -/
def hashInit : HashState :=
  { a := 0x6a09e667#32, b := 0xbb67ae85#32, c := 0x3c6ef372#32, d := 0xa54ff53a#32,
    e := 0x510e527f#32, f := 0x9b05688c#32, g := 0x1f83d9ab#32, h := 0x5be0cd19#32 }

/-- `be64(n)` (R185): the 8 bytes of a 64-bit number, most significant byte first. -/
def be64 (n : Nat) : List Byte :=
  [56, 48, 40, 32, 24, 16, 8, 0].map fun s => BitVec.ofNat 8 (n >>> s)

/-- `k = (55 - L) mod 64` (R185): how many zero bytes the padding inserts. -/
def padZeros (len : Nat) : Nat := (55 + 64 - len % 64) % 64

/-- `pad(m)` (R185). -/
def padMessage (m : List Byte) : List Byte :=
  m ++ [0x80#8] ++ List.replicate (padZeros m.length) 0x00#8 ++ be64 (8 * m.length)

/-- The first `n` blocks of 64 bytes of a byte sequence, in order (R186). -/
def blocksOf : Nat → List Byte → List (List Byte)
  | 0, _ => []
  | n + 1, m => m.take 64 :: blocksOf n (m.drop 64)

/-- A block as words, each from 4 consecutive bytes, most significant byte first (R186). -/
def wordsOf : List Byte → List ShaWord
  | b0 :: b1 :: b2 :: b3 :: rest => (b0 ++ b1 ++ b2 ++ b3) :: wordsOf rest
  | _ => []

/-- The next word of the message schedule, `W[t]` for `t` the number of words there are (R187). -/
def nextScheduleWord (w : List ShaWord) : ShaWord :=
  let t := w.length
  ssig1 (w.getD (t - 2) 0#32) + w.getD (t - 7) 0#32 + ssig0 (w.getD (t - 15) 0#32) + w.getD (t - 16) 0#32

/-- A message schedule extended by `n` words (R187). -/
def extendSchedule : Nat → List ShaWord → List ShaWord
  | 0, w => w
  | n + 1, w => extendSchedule n (w ++ [nextScheduleWord w])

/-- The message schedule `W[0..63]` of one block `M[0..15]` (R187). -/
def schedule (m : List ShaWord) : List ShaWord := extendSchedule 48 m

/-- `T1` of one round (R188). -/
def roundT1 (v : HashState) (k w : ShaWord) : ShaWord := v.h + bsig1 v.e + ch v.e v.f v.g + k + w

/-- `T2` of one round (R188). -/
def roundT2 (v : HashState) : ShaWord := bsig0 v.a + maj v.a v.b v.c

/-- One round (R188): "all at once, from the old values". -/
def round (v : HashState) (k w : ShaWord) : HashState :=
  { a := roundT1 v k w + roundT2 v, b := v.a, c := v.b, d := v.c,
    e := v.d + roundT1 v k w, f := v.e, g := v.f, h := v.g }

/-- The 64 rounds of one block, in order (R188). -/
def rounds (v : HashState) (ws : List ShaWord) : HashState :=
  (roundConstants.zip ws).foldl (fun v kw => round v kw.1 kw.2) v

/-- Word-wise sum of two chaining values, modulo 2^32 (R188). -/
def HashState.add (x y : HashState) : HashState :=
  { a := x.a + y.a, b := x.b + y.b, c := x.c + y.c, d := x.d + y.d,
    e := x.e + y.e, f := x.f + y.f, g := x.g + y.g, h := x.h + y.h }

/-- `compress(H, B)` (R188). -/
@[irreducible] def compress (hv : HashState) (block : List Byte) : HashState :=
  hv.add (rounds hv (schedule (wordsOf block)))

/-- `be32(x)` (R189): the 4 bytes of a word, most significant byte first. -/
def be32 (x : ShaWord) : Vector Byte 4 :=
  #v[x.extractLsb' 24 8, x.extractLsb' 16 8, x.extractLsb' 8 8, x.extractLsb' 0 8]

/-- The 32 output bytes of a chaining value (R189). -/
def HashState.bytes (v : HashState) : Vector Byte 32 :=
  be32 v.a ++ be32 v.b ++ be32 v.c ++ be32 v.d ++ be32 v.e ++ be32 v.f ++ be32 v.g ++ be32 v.h

/-- The chaining value after the blocks of a padded message (R189). -/
def hashBlocks (padded : List Byte) : HashState :=
  (blocksOf (padded.length / 64) padded).foldl compress hashInit

/-- `SHA256(m)` (R180, R189). Irreducible, as `compress` is, so that no proof unfolds it unasked; the kernel evaluates it. -/
@[irreducible] def sha256 (m : List Byte) : Vector Byte 32 := (hashBlocks (padMessage m)).bytes

end Sys2Proof.Machine
end

