-- ==== Sys2Proof/Machine/Ops.lean ====
section
/-!
DEFINITION. The named operations every command is made of: the one response of a command (R91), the fault entry (R208) and
the refusal (R90), the pipeline of stages 2 and 3 (R90, R97, R204), reset (R39, R93, R230), and the writes of the three
units (R112, R113, R144, R166). The block has no return from a fault (R211): the only exits are the two resets below.
-/

namespace Sys2Proof.Machine

/-- The outcome of a step of this machine. -/
abbrev StepOutcome := Host.Outcome State Fault Refusal

/-- The state after a command has ended with the block `b`: the one response word is delivered (R61, R70, R91). -/
def State.answered (s : State) (b : Block) (ok : Bool) (data : BitVec 16) : State :=
  { s with toBlock := b, resps := s.resps ++ [response b.err ok data] }

/-- A command ends: the block becomes `b`, and the one response word is delivered (R61, R70, R91). -/
def answer (s : State) (b : Block) (ok : Bool) (data : BitVec 16) : StepOutcome := .next (s.answered b ok data)

/-- `respond(data)` of a command that leaves the block as it is (R12, R91). -/
def respond (s : State) (data : BitVec 16) : StepOutcome := answer s s.toBlock true data

/-- `refuse` (R90): no state changes; `ok = 0`, `data = 0`, `err` unchanged. -/
def refuse (s : State) : StepOutcome := answer s s.toBlock false 0#16

/-- The state writes of fault entry (R208): `ERR <- n`, and `END <- UNKNOWN` for `UnknownEndianness`. -/
def Block.faulted (b : Block) (f : FaultKind) : Block :=
  { b with
    err := some f
    endn := if f = .unknownEndianness then .unknown else b.endn }

/-- FAULT ENTRY, `raise F` (R208): the one shared operation by which every fault is taken. Nothing is saved elsewhere and
there is no vector; `ok = 0`, `data = 0`. -/
def raise (f : FaultKind) (s : State) : StepOutcome := answer s (s.toBlock.faulted f) false 0#16

/-- R90 stage 1 for a word that is not legal: `IllegalCommand`, or a refusal in the fault state. -/
def illegalWord (s : State) : StepOutcome :=
  if s.err = none then raise .illegalCommand s else refuse s

/-- `permitted_in_fault(c)` (R97). -/
def permittedInFault (i : Instr) (b : Block) : Bool :=
  match i with
  | .nop => true
  | .rst => true
  | .rds _ => true
  | .rdw idx => b.loaded idx
  | .setmode _ => false
  | .ldw _ => false
  | .resolve => false
  | .rdr _ => false
  | .pwb _ => false
  | .rdt _ => false
  | .hash => false
  | .rdd _ => false

/-- `precondition(c)`, the sequence check of each command (R204). -/
def precondition (i : Instr) (b : Block) : Bool :=
  match i with
  | .nop => true
  | .rst => true
  | .rds _ => true
  | .rdt _ => true
  | .setmode _ => b.endn == .none
  | .ldw _ => b.endn == .none
  | .resolve => b.endn == .none
  | .rdw idx => b.loaded idx
  | .rdr _ => b.resolved
  | .pwb _ => !b.dvalid
  | .hash => b.resolved && !b.dvalid
  | .rdd _ => b.dvalid

/-- Stages 2 and 3 of R90 for a legal command `i`, in front of its own pseudocode `body` (stage 4). -/
def runChecked (i : Instr) (s : State) (body : StepOutcome) : StepOutcome :=
  if s.err ≠ none ∧ permittedInFault i s.toBlock = false then refuse s
  else if s.err = none ∧ precondition i s.toBlock = false then raise .sequenceError s
  else body

/-- The writes of `RST` (R93): everything but `RAW` and `DIGEST`. -/
def Block.cleared (b : Block) : Block :=
  { b with
    wcnt := 0#9
    mode := .detect
    endn := .none
    plen := 0#7
    trunc := false
    tp := Vector.replicate 64 0x00#8
    dvalid := false
    zbyte := false
    err := none }

/-- A pulse of `rst_n` (R230): the state of R39, with `RAW` and `DIGEST` unspecified, that is, free values (log 6). No
response is given, and what the host has still to present stays to be presented. -/
def hardwareReset (s : State) : State :=
  { s with
    toBlock := Block.cleared
      { s.toBlock with
        raw := Config.rawAfterReset s.resets
        digest := Config.digestAfterReset s.resets }
    resets := s.resets + 1 }

/-- The writes of `LDW imm16` (R112): store and count, then count the one word too many, then nothing (log 12 for a count no
run reaches). -/
def Block.loadWord (b : Block) (imm16 : IdWord) : Block :=
  if b.wcnt < 256#9 then { b with raw := b.raw.setIfInBounds b.wcnt.toNat imm16, wcnt := b.wcnt + 1#9 }
  else if b.wcnt = 256#9 then { b with wcnt := 257#9 }
  else b

/-- A probe is conclusive (R117, R118): exactly one of the two bytes of the word equals the value. -/
def probeUsable (v : Byte) (w : IdWord) : Bool := (lowByte w == v) != (highByte w == v)

/-- The detection of R113 in mode `DETECT`: word 47 by its high byte (R117), else word 255 by its low byte (R118), else
inconclusive (R119). -/
def detectOrder (raw : Vector IdWord 256) : Option Order :=
  if probeUsable Config.probe1Val raw[47] then
    if highByte raw[47] = Config.probe1Val then some .native else some .swapped
  else if probeUsable Config.probe2Val raw[255] then
    if lowByte raw[255] = Config.probe2Val then some .native else some .swapped
  else none

/-- The order `RESOLVE` fixes (R113): forced (R115, R116) or detected; `none` when detection is inconclusive (R119). -/
def Block.orderToFix (b : Block) : Option Order :=
  match b.mode with
  | .native => some .native
  | .reverse => some .swapped
  | .detect => detectOrder b.raw

/-- The writes of `PWB imm8` (R144, R145): append the mapped byte, or notice that `TP` is full (log 12
for a length no run reaches), or delete the byte. -/
def Block.pushByte (b : Block) (d : DigitOrder) (imm8 : Byte) : Block :=
  match mapByte d imm8 with
  | some m =>
    if b.plen < 64#7 then { b with tp := b.tp.setIfInBounds b.plen.toNat m, plen := b.plen + 1#7 }
    else { b with trunc := true }
  | none => b

/-- `X` (R162): the first hash, of the 64 bytes of `TP`. -/
def Block.firstHash (b : Block) : Vector Byte 32 := sha256 b.tp.toList

/-- `M2 = T ++ FIELDS` (R163, R164): the first 12 bytes of `X`, then the identity fields. -/
def Block.secondMessage (b : Block) : List Byte := b.firstHash.toList.take Config.truncLen ++ b.fields

/-- `D` (R165): the digest of the block's password and identity fields. -/
def Block.digestOf (b : Block) : Vector Byte 32 := sha256 b.secondMessage

/-- The writes of `HASH` (R166): `DIGEST`, `DVALID`, `ZBYTE`. -/
def Block.storeDigest (b : Block) (d : Vector Byte 32) : Block :=
  { b with digest := d, dvalid := true, zbyte := hasZeroByte d }

end Sys2Proof.Machine
end

