-- ==== Sys2Proof/Machine/Control.lean ====
section
/-!
DEFINITION. The commands of the sequencer: NOP, RST, SETMODE, RDS (40_control.md).
-/

namespace Sys2Proof.Machine

/-- `NOP` (R92). -/
def execNop (s : State) : StepOutcome := runChecked .nop s (respond s 0#16)

/-- `RST` (R93). -/
def execRst (s : State) : StepOutcome := runChecked .rst s (answer s s.toBlock.cleared true 0#16)

/-- `SETMODE mode` (R94); the value 3 is an illegal word (R75), which the decoder never hands on (log 11). -/
def execSetmode (mode : BitVec 2) (s : State) : StepOutcome :=
  match modeOf? mode with
  | some m => runChecked (.setmode mode) s (answer s { s.toBlock with mode := m } true 0#16)
  | none => illegalWord s

/-- `RDS sel` (R95); the value 3 is an illegal word (R75), which the decoder never hands on (log 11). -/
def execRds (sel : BitVec 2) (s : State) : StepOutcome :=
  match s.toBlock.status? sel with
  | some data => runChecked (.rds sel) s (respond s data)
  | none => illegalWord s

end Sys2Proof.Machine
end

