-- ==== Sys2Proof/Machine/Digest.lean ====
section
/-!
DEFINITION. The commands of the digest engine: HASH, RDD (43_digest.md).
-/

namespace Sys2Proof.Machine

/-- `HASH` (R166). -/
def execHash (s : State) : StepOutcome :=
  runChecked .hash s (answer s (s.toBlock.storeDigest s.toBlock.digestOf) true 0#16)

/-- `RDD idx` (R168). -/
def execRdd (idx : BitVec 5) (s : State) : StepOutcome :=
  runChecked (.rdd idx) s (respond s ((s.toBlock.digestAt idx).setWidth 16))

end Sys2Proof.Machine
end

