-- ==== Sys2Proof/Machine/Identity.lean ====
section
/-!
DEFINITION. The commands of the identity parser: LDW, RESOLVE, RDW, RDR (41_identity.md).
-/

namespace Sys2Proof.Machine

/-- `LDW imm16` (R112). -/
def execLdw (imm16 : BitVec 16) (s : State) : StepOutcome :=
  runChecked (.ldw imm16) s (answer s (s.toBlock.loadWord imm16) true 0#16)

/-- `RESOLVE` (R113): count check (R114), then the order, or `UnknownEndianness` (R119). -/
def execResolve (s : State) : StepOutcome :=
  runChecked .resolve s <|
    if s.wcnt ≠ 256#9 then raise .malformedRecord s
    else
      match s.toBlock.orderToFix with
      | some o => answer s { s.toBlock with endn := o } true 0#16
      | none => raise .unknownEndianness s

/-- `RDW idx` (R121): the word as loaded, whatever `END` is. -/
def execRdw (idx : BitVec 8) (s : State) : StepOutcome :=
  runChecked (.rdw idx) s (respond s (s.toBlock.rawAt idx))

/-- `RDR idx` (R122): the word of the resolved record. -/
def execRdr (idx : BitVec 8) (s : State) : StepOutcome :=
  runChecked (.rdr idx) s (respond s (s.toBlock.resAt idx))

end Sys2Proof.Machine
end

