-- ==== Sys2Proof/Machine/Translator.lean ====
section
/-!
DEFINITION. The commands of the password translator: PWB, RDT (42_translator.md).
-/

namespace Sys2Proof.Machine

/-- `PWB imm8` (R144, R145), with the digit order of the configuration (R143). -/
def execPwb (imm8 : BitVec 8) (s : State) : StepOutcome :=
  runChecked (.pwb imm8) s (answer s (s.toBlock.pushByte s.cfg.digitOrder imm8) true 0#16)

/-- `RDT idx` (R147). -/
def execRdt (idx : BitVec 6) (s : State) : StepOutcome :=
  runChecked (.rdt idx) s (respond s ((s.toBlock.tpAt idx).setWidth 16))

end Sys2Proof.Machine
end

