-- ==== Sys2Proof/Machine/Dispatch.lean ====
section
/-! DEFINITION. The meaning of every command (stages 2 to 4 of R90), one arm per constructor. -/

namespace Sys2Proof.Machine

def exec (i : Instr) (s : State) : Host.Outcome State Fault Refusal :=
  match i with
  | .nop => Sys2Proof.Machine.execNop s
  | .rst => Sys2Proof.Machine.execRst s
  | .setmode mode => Sys2Proof.Machine.execSetmode mode s
  | .rds sel => Sys2Proof.Machine.execRds sel s
  | .ldw imm16 => Sys2Proof.Machine.execLdw imm16 s
  | .resolve => Sys2Proof.Machine.execResolve s
  | .rdw idx => Sys2Proof.Machine.execRdw idx s
  | .rdr idx => Sys2Proof.Machine.execRdr idx s
  | .pwb imm8 => Sys2Proof.Machine.execPwb imm8 s
  | .rdt idx => Sys2Proof.Machine.execRdt idx s
  | .hash => Sys2Proof.Machine.execHash s
  | .rdd idx => Sys2Proof.Machine.execRdd idx s

end Sys2Proof.Machine
end

