-- ==== Sys2Proof/Machine/Pipeline.lean ====
section
/-! DEFINITION. The execution of one accepted command word (R90). -/

namespace Sys2Proof.Machine

/-- Execution of one accepted command word (R90): stage 1 decodes, `exec` is stages 2 to 4. -/
def command (c : CmdWord) (s : State) : Host.Outcome State Fault Refusal :=
  match decode c with
  | some i => exec i s
  | none => illegalWord s

end Sys2Proof.Machine
end

