-- ==== Sys2Proof/Machine/Step.lean ====
section
/-!
DEFINITION. One step: the next thing the host presents at the ports (R5, R61, R70). A command word goes through the four
stages of R90; a pulse of `rst_n` resets (R230); with nothing presented the block idles and holds its state (R214, R232).
-/

namespace Sys2Proof.Machine

/-- One step of the machine. -/
def step (s : State) : Host.Outcome State Fault Refusal :=
  match s.inputs with
  | [] => .next s
  | .cmd c :: rest => command c { s with inputs := rest }
  | .hwReset :: rest => .next (hardwareReset { s with inputs := rest })

/-- `s` with a command word presented next, ahead of whatever the host was to present (log 2). -/
def State.withFetchWord (s : State) (nbits w : Nat) : State :=
  { s with inputs := .cmd (BitVec.ofNat 32 (w % 2 ^ nbits)) :: s.inputs }

end Sys2Proof.Machine
end

