-- ==== Sys2Proof/Machine/Assembly.lean ====
section
/-!
DEFINITION. The assembly spelling of the spec's vectors (R79) and the pseudo-instructions (R80). No step uses this file: "none
adds behaviour" (R80).
-/

namespace Sys2Proof.Machine

/-- One upper-case hexadecimal digit. -/
def hexDigit (n : Nat) : Char := "0123456789ABCDEF".toList.getD n '0'

/-- A number as `n` hexadecimal digits, most significant first. -/
def hexDigits : Nat → Nat → List Char
  | 0, _ => []
  | n + 1, v => hexDigits n (v / 16) ++ [hexDigit (v % 16)]

/-- A number as `0x` and `n` hexadecimal digits. -/
def hexOperand (n v : Nat) : String := String.ofList ('0' :: 'x' :: hexDigits n v)

/-- The spelling of a command (R79); indices are given in `0x` hexadecimal, which R79 allows. The two operand values that
name no mode and no selector are no commands (R75) and are spelled as numbers. -/
def spelling : Instr → String
  | .nop => "NOP"
  | .rst => "RST"
  | .setmode mode =>
    if mode = 0#2 then "SETMODE detect"
    else if mode = 1#2 then "SETMODE native"
    else if mode = 2#2 then "SETMODE reverse"
    else "SETMODE " ++ hexOperand 1 mode.toNat
  | .rds sel =>
    if sel = 0#2 then "RDS flags"
    else if sel = 1#2 then "RDS wcnt"
    else if sel = 2#2 then "RDS plen"
    else "RDS " ++ hexOperand 1 sel.toNat
  | .ldw imm16 => "LDW " ++ hexOperand 4 imm16.toNat
  | .resolve => "RESOLVE"
  | .rdw idx => "RDW " ++ hexOperand 2 idx.toNat
  | .rdr idx => "RDR " ++ hexOperand 2 idx.toNat
  | .pwb imm8 => "PWB " ++ hexOperand 2 imm8.toNat
  | .rdt idx => "RDT " ++ hexOperand 2 idx.toNat
  | .hash => "HASH"
  | .rdd idx => "RDD " ++ hexOperand 2 idx.toNat

/-- The pseudo-instructions of R80. -/
inductive Pseudo where
  /-- `LDREC w0 w1 ... wk`. -/
  | ldrec (ws : List IdWord)
  /-- `LDW w *n`. -/
  | ldwTimes (w : IdWord) (n : Nat)
  /-- `PWS "text"`, the text as its bytes. -/
  | pws (text : List Byte)
  /-- `RDDIGEST`. -/
  | rddigest
  /-- `RDTP`. -/
  | rdtp
deriving DecidableEq, Repr

/-- The expansion of a pseudo-instruction (R80): "plain commands in the order given". -/
def Pseudo.expand : Pseudo → List Instr
  | .ldrec ws => ws.map .ldw
  | .ldwTimes w n => List.replicate n (.ldw w)
  | .pws text => text.map .pwb
  | .rddigest => (List.range 32).map fun i => .rdd (BitVec.ofNat 5 i)
  | .rdtp => (List.range 64).map fun i => .rdt (BitVec.ofNat 6 i)

end Sys2Proof.Machine
end

