-- ==== Sys2Proof/Machine/HostSide.lean ====
section
/-!
DEFINITION. The host's duties around the block as pure functions (R234 to R238). They are "not behaviour of the hardware"
(70_reset_and_hazards.md section 3) and no step uses them; R4 leaves the rest of the host's work out.
-/

namespace Sys2Proof.Machine

/-- White space that delimits tokens (R235): space, TAB, LF, VT, FF, CR. PRESUMED, log 16. -/
def isBlank (b : Byte) : Bool := b == 0x20#8 || (decide (0x09#8 ≤ b) && decide (b ≤ 0x0D#8))

/-- The value of a hexadecimal digit, "both letter cases" (R235); `none` for any other byte. -/
def hexValue? (b : Byte) : Option (BitVec 4) :=
  if 0x30#8 ≤ b ∧ b ≤ 0x39#8 then some ((b - 0x30#8).setWidth 4)
  else if 0x41#8 ≤ b ∧ b ≤ 0x46#8 then some ((b - 0x37#8).setWidth 4)
  else if 0x61#8 ≤ b ∧ b ≤ 0x66#8 then some ((b - 0x57#8).setWidth 4)
  else none

/-- The tokens of a text, in order; `cur` holds the bytes of the token being read, in order. -/
def tokensFrom (cur : List Byte) : List Byte → List (List Byte)
  | [] => [cur]
  | b :: rest => if isBlank b then cur :: tokensFrom [] rest else tokensFrom (cur ++ [b]) rest

/-- The 16-bit word of a token of exactly 4 hexadecimal digits, "parsed as a big-endian 16-bit value" (R52, R235). -/
def tokenWord? : List Byte → Option IdWord
  | [a, b, c, d] => do
    let a ← hexValue? a
    let b ← hexValue? b
    let c ← hexValue? c
    let d ← hexValue? d
    return a ++ b ++ c ++ d
  | _ => none

/-- Every qualifying token of an identity text, in file order, as the words the host sends (R235). -/
def identityWords (text : List Byte) : List IdWord := (tokensFrom [] text).filterMap tokenWord?

/-- The `SETMODE` of a session (R234, R238): none when the order is not forced. -/
def modeCommands : Option Mode → List Instr
  | some .native => [.setmode 1#2]
  | some .reverse => [.setmode 2#2]
  | some .detect => [.setmode 0#2]
  | none => []

/-- The canonical session of R234. -/
def sessionCommands (forced : Option Mode) (identity : List IdWord) (password : List Byte) : List Instr :=
  [.rst] ++ modeCommands forced ++ (Pseudo.ldrec identity).expand ++ [.resolve] ++ (Pseudo.pws password).expand
    ++ [.hash, .rds 0#2] ++ Pseudo.rddigest.expand

/-- The words of a list of commands, as the host presents them (R61, R78). -/
def present (is : List Instr) : List HostInput := is.map fun i => .cmd (encode i)

/-- One lower-case hexadecimal digit as its ASCII byte (R237). -/
def hexDigitByte (n : Byte) : Byte := if n < 10#8 then 0x30#8 + n else 0x57#8 + n

/-- The hex output of a digest (R237): a fixed tag, lower-case hex, then a newline. The tag is in no source
(91_not_in_source.md N6), so it is an argument. -/
def hexOutput (tag : List Byte) (digest : List Byte) : List Byte :=
  tag ++ digest.flatMap (fun (b : Byte) => [hexDigitByte (b >>> 4), hexDigitByte (b &&& 0x0F#8)]) ++ [0x0A#8]

/-- The host emits the zero-byte warning exactly when bit 5 of `FLAGS` is set (R237). -/
def warnsZeroByte (flags : BitVec 16) : Bool := flags.getLsbD 5

end Sys2Proof.Machine
end

