-- ==== Sys2Proof/Safety.lean ====
section
/-!
DEFINITION. The terms claims are stated in: the fields of a response word (R71), the invariants of every reachable state
(R40), what can be observed of a block (R39), and how a session has ended (R243).
-/

namespace Sys2Proof.Safety

open Sys2Proof.Machine

/-- `err`, bits 31:24 of a response (R71). -/
def respErr (r : RespWord) : BitVec 8 := r.extractLsb' 24 8

/-- Bits 23:17 of a response, "always 0" (R71). -/
def respZero (r : RespWord) : BitVec 7 := r.extractLsb' 17 7

/-- `ok`, bit 16 of a response (R71). -/
def respOk (r : RespWord) : Bool := r.getLsbD 16

/-- `data`, bits 15:0 of a response (R71). -/
def respData (r : RespWord) : BitVec 16 := r.extractLsb' 0 16

/-- The 38 alphabet byte values, "2..11, 16..25, 30..39, 44..50, 57" (R40, R142, glossary "mapped byte"). -/
def alphabetValues : List Byte :=
  [2#8, 3#8, 4#8, 5#8, 6#8, 7#8, 8#8, 9#8, 10#8, 11#8] ++
  [16#8, 17#8, 18#8, 19#8, 20#8, 21#8, 22#8, 23#8, 24#8, 25#8] ++
  [30#8, 31#8, 32#8, 33#8, 34#8, 35#8, 36#8, 37#8, 38#8, 39#8] ++
  [44#8, 45#8, 46#8, 47#8, 48#8, 49#8, 50#8, 57#8]

/-- The invariants of R40, numbered as there. -/
structure Reachable (b : Block) : Prop where
  /-- Item 1: `WCNT <= 257`, `PLEN <= 64`, `MODE <= 2`, `ERR <= 4`. -/
  bounds : b.wcnt.toNat ≤ 257 ∧ b.plen.toNat ≤ 64 ∧ b.mode.bits.toNat ≤ 2 ∧ (errCode b.err).toNat ≤ 4
  /-- Item 2, the padding invariant of R30. -/
  padding : ∀ i : Fin 64,
    (i.val < b.plen.toNat → b.tp[i] ∈ alphabetValues) ∧ (b.plen.toNat ≤ i.val → b.tp[i] = 0x00#8)
  /-- Item 3. -/
  resolvedCount : b.endn = .native ∨ b.endn = .swapped → b.wcnt = 256#9
  /-- Item 4. -/
  unknownFault : b.endn = .unknown ↔ b.err = some .unknownEndianness
  /-- Item 5. -/
  digestResolved : b.dvalid = true → b.endn = .native ∨ b.endn = .swapped
  /-- Item 6. -/
  zeroValid : b.zbyte = true → b.dvalid = true
  /-- Item 7. -/
  truncFull : b.trunc = true → b.plen = 64#7
  /-- Item 8. -/
  malformedShape : b.err = some .malformedRecord → b.endn = .none ∧ b.wcnt ≠ 256#9

/-- Two blocks no command can tell apart (R39): everything equal but the words of `RAW` that are not loaded and, while
`DVALID = 0`, the bytes of `DIGEST`. -/
structure Indistinguishable (b c : Block) : Prop where
  wcnt : b.wcnt = c.wcnt
  mode : b.mode = c.mode
  endn : b.endn = c.endn
  tp : b.tp = c.tp
  plen : b.plen = c.plen
  trunc : b.trunc = c.trunc
  dvalid : b.dvalid = c.dvalid
  zbyte : b.zbyte = c.zbyte
  err : b.err = c.err
  loadedWords : ∀ i : Fin 256, i.val < min b.wcnt.toNat 256 → b.raw[i] = c.raw[i]
  validDigest : b.dvalid = true → b.digest = c.digest

/-- A run of commands, each on the state the one before it left (R61), stopping where one does not go on. -/
def execAll : List Instr → State → StepOutcome
  | [], s => .next s
  | i :: rest, s =>
    match exec i s with
    | .next t => execAll rest t
    | .fault r => .fault r
    | .refused r => .refused r

/-- The state a fault leaves, and nothing else changed (R208): `ERR` holds its code, `END` is `UNKNOWN` for
`UnknownEndianness`; the response has `ok = 0` and `data = 0`. -/
def faultTaken (s : State) (f : FaultKind) : State :=
  s.answered { s.toBlock with err := some f, endn := if f = .unknownEndianness then .unknown else s.endn } false 0#16

/-- The state a refusal leaves (R90): the block unchanged; the response has `ok = 0`, `data = 0` and the standing code. -/
def refusalGiven (s : State) : State := s.answered s.toBlock false 0#16

/-- A command that answers `data` and leaves the block unchanged (R12). -/
def dataGiven (s : State) (data : BitVec 16) : State := s.answered s.toBlock true data

/-- A session has ended in failure (R243): some response had `ok = 0`. -/
def endedInFailure (resps : List RespWord) : Bool := resps.any fun r => !respOk r

/-- The failure kind of a session that has ended in failure (R243): the `err` of the first response with `ok = 0`. -/
def failureKind (resps : List RespWord) : Option (BitVec 8) := (resps.find? fun r => !respOk r).map respErr

/-- The digest a host has fetched (R243): "the 32 `data[7:0]` values in index order", from the responses to `RDD 0` ..
`RDD 31`, when there are 32 and each has `ok = 1`. -/
def fetchedDigest (rddResps : List RespWord) : Option (List Byte) :=
  if rddResps.length = 32 ∧ rddResps.all respOk then some (rddResps.map fun r => r.extractLsb' 0 8) else none

/-- A word is illegal, as its rule's "Faults" line says: presented without a standing fault it raises `IllegalCommand` (R75). -/
def RaisesIllegalCommand (c : CmdWord) : Prop :=
  ∀ (s : State) (rest : List HostInput), s.err = none → s.inputs = .cmd c :: rest →
    step s = .next (faultTaken { s with inputs := rest } .illegalCommand)

/-- The block is ready to hash: no fault, a resolved record, no digest yet (R166's precondition). -/
def readyToHash (b : Block) : Prop :=
  b.err = none ∧ (b.endn = .native ∨ b.endn = .swapped) ∧ b.dvalid = false

end Sys2Proof.Safety
end

