-- ==== Sys2Proof/Certificates/Slice0/Obligations.lean ====
section
/-!
DEFINITION. The statements about the model, for the provers. Each docstring names the rule of the spec it formalises.
-/

open Sys2Proof Sys2Proof.Machine Sys2Proof.Safety

/-! ## Encoding -/

/-- 30_encoding.md sections 2 and 4: one word of every command, written out from R73's encodings (the four of R78 among
them), decodes to the command it stands for, and four illegal words decode to nothing. -/
def Obligations.WrittenWordsDecode : Prop :=
  decode 0x00000000#32 = some .nop ∧
  decode 0x01000000#32 = some .rst ∧
  decode 0x02000002#32 = some (.setmode 2#2) ∧
  decode 0x03000001#32 = some (.rds 1#2) ∧
  decode 0x10000080#32 = some (.ldw 0x0080#16) ∧
  decode 0x11000000#32 = some .resolve ∧
  decode 0x1200002F#32 = some (.rdw 47#8) ∧
  decode 0x130000FF#32 = some (.rdr 255#8) ∧
  decode 0x20000074#32 = some (.pwb 0x74#8) ∧
  decode 0x2100003F#32 = some (.rdt 63#6) ∧
  decode 0x30000000#32 = some .hash ∧
  decode 0x3100001F#32 = some (.rdd 31#5) ∧
  decode 0x04000000#32 = none ∧
  decode 0x00010000#32 = none ∧
  decode 0x02000003#32 = none ∧
  decode 0x31000020#32 = none

/-- 30_encoding.md sections 2 and 4 (R72, R73, R78): no bit of a command is lost between encoder and decoder, at any value
of any operand. -/
def Obligations.DecodeOfEncode : Prop :=
  ∀ i : Instr, i.wf = true → decode (encode i) = some i

/-- 30_encoding.md section 2 (R72, R74): a word has one meaning; a legal word is the encoding of the command it decodes to,
and that command is well formed. -/
def Obligations.EncodeOfDecode : Prop :=
  ∀ (c : CmdWord) (i : Instr), decode c = some i → i.wf = true ∧ encode i = c

/-- R74, both forms: the decoder accepts a word exactly when the four items hold; a word is accepted as a command exactly
when it falls under that command's mask and match row; and no word falls under two rows. -/
def Obligations.LegalWordsExactly : Prop :=
  (∀ c : CmdWord, (decode c).isSome = true ↔
    ∃ op mask, (op, mask) ∈
        [(0x00#8, 0x0000#16), (0x01#8, 0x0000#16), (0x11#8, 0x0000#16), (0x30#8, 0x0000#16), (0x02#8, 0x0003#16),
         (0x03#8, 0x0003#16), (0x10#8, 0xFFFF#16), (0x12#8, 0x00FF#16), (0x13#8, 0x00FF#16), (0x20#8, 0x00FF#16),
         (0x21#8, 0x003F#16), (0x31#8, 0x001F#16)] ∧
      c.extractLsb' 24 8 = op ∧
      c.extractLsb' 16 8 = 0x00#8 ∧
      c.extractLsb' 0 16 &&& ~~~mask = 0#16 ∧
      (op = 0x02#8 ∨ op = 0x03#8 → c.extractLsb' 0 2 ≠ 3#2)) ∧
  (∀ (c : CmdWord) (r : MaskMatch), r ∈ maskMatchRows →
    (r.takes c = true ↔ ∃ i, decode c = some i ∧ mnemonic i = r.mnemonic)) ∧
  (∀ (c : CmdWord) (r q : MaskMatch), r ∈ maskMatchRows → q ∈ maskMatchRows →
    r.takes c = true → q.takes c = true → r = q)

/-! ## The step -/

/-- R90 stage 1 and R61: a presented word that decodes to a command takes itself off the port and is that command's `exec`. -/
def Obligations.StepRunsDecodedCommand : Prop :=
  ∀ (s : State) (c : CmdWord) (rest : List HostInput) (i : Instr),
    s.inputs = .cmd c :: rest → decode c = some i → step s = exec i { s with inputs := rest }

/-- R75: every illegal word raises `IllegalCommand` without a standing fault and is refused with one, and has no other
effect; the words R75 lists are illegal. -/
def Obligations.IllegalWordFaultsOrIsRefused : Prop :=
  (∀ (s : State) (c : CmdWord) (rest : List HostInput), s.inputs = .cmd c :: rest → decode c = none →
    (s.err = none → step s = .next (faultTaken { s with inputs := rest } .illegalCommand)) ∧
    (s.err ≠ none → step s = .next (refusalGiven { s with inputs := rest }))) ∧
  (∀ c : CmdWord,
    (c.extractLsb' 24 8 ∉
        [0x00#8, 0x01#8, 0x02#8, 0x03#8, 0x10#8, 0x11#8, 0x12#8, 0x13#8, 0x20#8, 0x21#8, 0x30#8, 0x31#8] ∨
      c.extractLsb' 16 8 ≠ 0x00#8 ∨
      (∃ mask, argMask? (c.extractLsb' 24 8) = some mask ∧ c.extractLsb' 0 16 &&& ~~~mask ≠ 0#16) ∨
      c = 0x02000003#32 ∨ c = 0x03000003#32) →
    decode c = none)

/-- 70_reset_and_hazards.md section 1 (R230, R232): with nothing presented the block waits and its state is unchanged. -/
def Obligations.IdleBlockHoldsItsState : Prop :=
  ∀ s : State, s.inputs = [] → step s = .next s

/-- 70_reset_and_hazards.md section 1 (R230): a pulse of `rst_n` completes, leaves every register R39 gives a value at that
value whatever it held, answers nothing, and leaves the rest of the command stream to come. `RAW` and `DIGEST` are free
values (log 6), of which this says nothing. -/
def Obligations.HardwareResetState : Prop :=
  ∀ (s : State) (rest : List HostInput), s.inputs = .hwReset :: rest →
    ∃ t, step s = .next t ∧
      t.wcnt = 0#9 ∧ t.mode = .detect ∧ t.endn = .none ∧ t.plen = 0#7 ∧
      (∀ i : Fin 64, t.tp[i] = 0x00#8) ∧
      t.trunc = false ∧ t.dvalid = false ∧ t.zbyte = false ∧ t.err = none ∧
      t.inputs = rest ∧ t.resps = s.resps ∧ t.cfg = s.cfg

/-- 10_state.md section 9 (R39): the values the spec gives for reset, and the phase after reset. Of `RAW` and `DIGEST`, whose
reset values are the model's choice (logs 3 and 4), it says nothing. -/
def Obligations.ResetStateValues : Prop :=
  State.reset.wcnt = 0#9 ∧ State.reset.mode = .detect ∧ State.reset.endn = .none ∧
  (∀ i : Fin 64, State.reset.tp[i] = 0x00#8) ∧
  State.reset.plen = 0#7 ∧ State.reset.trunc = false ∧ State.reset.dvalid = false ∧ State.reset.zbyte = false ∧
  State.reset.err = none ∧ State.reset.toBlock.inPhase .loading = true

/-- 70_reset_and_hazards.md section 5 (R244) and R90's "total function": every step of every state answers a next state; the
block never stops. -/
def Obligations.EveryStepCompletes : Prop :=
  ∀ s : State, ∃ t, step s = .next t

/-- R91: every accepted word completes, is taken off the port and answered by exactly one response word, made of `ERR` after
the command, `ok` and `data`; a fault or refusal carries no data and never leaves `ERR` at 0; no normal end changes `ERR`,
except `RST`, which makes it 0. -/
def Obligations.OneResponsePerCommand : Prop :=
  ∀ (s : State) (c : CmdWord) (rest : List HostInput), s.inputs = .cmd c :: rest →
    ∃ t ok data, step s = .next t ∧ t.inputs = rest ∧
      t.resps = s.resps ++
        [((errCode t.err).setWidth 32 <<< 24) ||| (if ok then 0x00010000#32 else 0x00000000#32) ||| data.setWidth 32] ∧
      (ok = false → data = 0#16 ∧ t.err ≠ none) ∧
      (ok = true → decode c ≠ some .rst → t.err = s.err) ∧
      (decode c = some .rst → ok = true ∧ t.err = none)

/-- 30_encoding.md section 3 (R71): the fields of a response word, and the codes of `ERR` (R200). -/
def Obligations.ResponseWordFields : Prop :=
  (∀ (e : Option FaultKind) (ok : Bool) (data : BitVec 16),
    respErr (response e ok data) = errCode e ∧ respZero (response e ok data) = 0#7 ∧
    respOk (response e ok data) = ok ∧ respData (response e ok data) = data) ∧
  errCode none = 0#8 ∧ errCode (some .malformedRecord) = 1#8 ∧ errCode (some .unknownEndianness) = 2#8 ∧
  errCode (some .illegalCommand) = 3#8 ∧ errCode (some .sequenceError) = 4#8

/-! ## The control commands -/

/-- R92: `NOP`'s encoding, that every other word of its opcode is illegal, and that it answers `ok = 1`, data 0, and changes
nothing, in the fault state too. -/
def Obligations.NopRule : Prop :=
  encode .nop = 0x00000000#32 ∧
  (∀ c : CmdWord, c.extractLsb' 24 8 = 0x00#8 → c ≠ 0x00000000#32 → RaisesIllegalCommand c) ∧
  (∀ s : State, exec .nop s = .next (dataGiven s 0#16))

/-- R93: `RST` in every phase: every register of its pseudocode, `RAW` and `DIGEST` not written, the response with `ok = 1`
and `err` = 0; the block it leaves cannot be told apart from the block a hardware reset leaves; and no other command leaves
the fault state. -/
def Obligations.RstRule : Prop :=
  encode .rst = 0x01000000#32 ∧
  (∀ (s t : State) (c : CmdWord) (rest : List HostInput), s.err ≠ none → s.inputs = .cmd c :: rest → step s = .next t →
    (t.err = none ↔ c = 0x01000000#32)) ∧
  ∀ s : State, ∃ b : Block,
    b = { s.toBlock with
          wcnt := 0#9, mode := .detect, endn := .none, plen := 0#7, trunc := false,
          tp := Vector.replicate 64 0x00#8, dvalid := false, zbyte := false, err := none } ∧
    exec .rst s = .next (s.answered b true 0#16) ∧
    Indistinguishable b (hardwareReset s).toBlock

/-- R94: `SETMODE`'s three encodings and their modes, that any other word of its opcode raises `IllegalCommand`, the sequence
error unless `END` is `NONE`, and the effect: `MODE` and nothing else; and that the mode has no effect until `RESOLVE` reads
it: two states that differ in `MODE` alone answer every word but `RESOLVE` and `RDS flags` alike, and differ in `MODE` at
most afterwards. -/
def Obligations.SetmodeRule : Prop :=
  (∀ c : CmdWord, c.extractLsb' 24 8 = 0x02#8 →
    decode c = if c = 0x02000000#32 then some (.setmode 0#2)
      else if c = 0x02000001#32 then some (.setmode 1#2)
      else if c = 0x02000002#32 then some (.setmode 2#2) else none) ∧
  (∀ c : CmdWord, c.extractLsb' 24 8 = 0x02#8 → c ∉ [0x02000000#32, 0x02000001#32, 0x02000002#32] →
    RaisesIllegalCommand c) ∧
  (∀ (s : State) (mode : BitVec 2) (m : Mode), m.bits = mode → s.err = none →
    (s.endn = .none → exec (.setmode mode) s = .next (s.answered { s.toBlock with mode := m } true 0#16)) ∧
    (s.endn ≠ .none → exec (.setmode mode) s = .next (faultTaken s .sequenceError))) ∧
  (∀ (s t u : State) (m : Mode) (c : CmdWord) (rest : List HostInput),
    s.inputs = .cmd c :: rest → decode c ≠ some .resolve → step s = .next t → step { s with mode := m } = .next u →
    { u.toBlock with mode := t.mode } = t.toBlock ∧ u.inputs = t.inputs ∧
      (decode c ≠ some (.rds 0#2) → u.resps = t.resps))

/-- R95: `RDS`'s three encodings, that any other word of its opcode raises `IllegalCommand`, and that it
reads `FLAGS`, `WCNT` or `PLEN` in every phase, the fault state too, and changes nothing. -/
def Obligations.RdsRule : Prop :=
  (∀ c : CmdWord, c.extractLsb' 24 8 = 0x03#8 →
    decode c = if c = 0x03000000#32 then some (.rds 0#2)
      else if c = 0x03000001#32 then some (.rds 1#2)
      else if c = 0x03000002#32 then some (.rds 2#2) else none) ∧
  (∀ c : CmdWord, c.extractLsb' 24 8 = 0x03#8 → c ∉ [0x03000000#32, 0x03000001#32, 0x03000002#32] →
    RaisesIllegalCommand c) ∧
  (∀ s : State,
    exec (.rds 0#2) s = .next (dataGiven s
      (s.mode.bits.setWidth 16 ||| (s.endn.bits.setWidth 16 <<< 2) ||| (if s.dvalid then 0x0010#16 else 0#16) |||
        (if s.zbyte then 0x0020#16 else 0#16) ||| (if s.trunc then 0x0040#16 else 0#16))) ∧
    exec (.rds 1#2) s = .next (dataGiven s (s.wcnt.setWidth 16)) ∧
    exec (.rds 2#2) s = .next (dataGiven s (s.plen.setWidth 16)))

/-- 10_state.md section 6 (R36) and R25, R26: the place of every field of `FLAGS`, and the codes of `MODE` and `END`. -/
def Obligations.FlagsLayout : Prop :=
  (∀ b : Block,
    b.flags.extractLsb' 0 2 = b.mode.bits ∧ b.flags.extractLsb' 2 2 = b.endn.bits ∧
    b.flags.getLsbD 4 = b.dvalid ∧ b.flags.getLsbD 5 = b.zbyte ∧ b.flags.getLsbD 6 = b.trunc ∧
    b.flags.extractLsb' 7 9 = 0#9) ∧
  Mode.detect.bits = 0#2 ∧ Mode.native.bits = 1#2 ∧ Mode.reverse.bits = 2#2 ∧
  Order.none.bits = 0#2 ∧ Order.native.bits = 1#2 ∧ Order.swapped.bits = 2#2 ∧ Order.unknown.bits = 3#2

/-! ## The identity parser -/

/-- R112: `LDW`'s encoding at every word, the sequence error after a resolution, and its three cases: store and count, the
one word too many, no change. -/
def Obligations.LdwRule : Prop :=
  (∀ w : IdWord, decode (0x10000000#32 ||| w.setWidth 32) = some (.ldw w)) ∧
  (∀ (s : State) (w : IdWord), s.err = none →
    (s.endn ≠ .none → exec (.ldw w) s = .next (faultTaken s .sequenceError)) ∧
    (s.endn = .none → s.wcnt.toNat < 256 →
      exec (.ldw w) s =
        .next (s.answered
          { s.toBlock with
            raw := s.raw.setIfInBounds s.wcnt.toNat w
            wcnt := s.wcnt + 1#9 } true 0#16)) ∧
    (s.endn = .none → s.wcnt.toNat = 256 →
      exec (.ldw w) s = .next (s.answered { s.toBlock with wcnt := 257#9 } true 0#16)) ∧
    (s.endn = .none → s.wcnt.toNat = 257 → exec (.ldw w) s = .next (dataGiven s 0#16)))

/-- 10_state.md section 2 (R23, R24) and 41_identity.md sections 1 and 2 (R110, R112): a run of `LDW`s on a freshly reset
record makes the first 256 words offered the record, in order, counts up to 257, and changes nothing else of the block. -/
def Obligations.LoadedRecordIsTheWordsOffered : Prop :=
  ∀ (s : State) (ws : List IdWord), s.err = none → s.endn = .none → s.wcnt = 0#9 →
    ∃ t, execAll (ws.map .ldw) s = .next t ∧
      t.wcnt.toNat = min ws.length 257 ∧
      (∀ i : Fin 256, t.raw[i] = if h : i.val < ws.length then ws[i.val] else s.raw[i]) ∧
      { t.toBlock with raw := s.raw, wcnt := s.wcnt } = s.toBlock

/-- R114: `RESOLVE` on any other count than 256 raises `MalformedRecord` in every mode, and `END` stays `NONE`. -/
def Obligations.ResolveCountsFirst : Prop :=
  ∀ s : State, s.err = none → s.endn = .none → s.wcnt ≠ 256#9 →
    exec .resolve s = .next (faultTaken s .malformedRecord) ∧ (faultTaken s .malformedRecord).endn = .none

/-- R115: mode `native` resolves without looking at any word, and `RES(i) = RAW[i]`. -/
def Obligations.ResolveNative : Prop :=
  ∀ s : State, s.err = none → s.endn = .none → s.wcnt = 256#9 → s.mode = .native →
    ∃ t, exec .resolve s = .next t ∧ t = s.answered { s.toBlock with endn := .native } true 0#16 ∧
      ∀ i : Fin 256, t.res i = s.raw[i]

/-- R116: mode `reverse` resolves without looking at any word, and `RES(i)` is word `i` with its two bytes exchanged. -/
def Obligations.ResolveReverse : Prop :=
  ∀ s : State, s.err = none → s.endn = .none → s.wcnt = 256#9 → s.mode = .reverse →
    ∃ t, exec .resolve s = .next t ∧ t = s.answered { s.toBlock with endn := .swapped } true 0#16 ∧
      ∀ i : Fin 256, (t.res i).extractLsb' 8 8 = s.raw[i].extractLsb' 0 8 ∧
        (t.res i).extractLsb' 0 8 = s.raw[i].extractLsb' 8 8

/-- 41_identity.md section 3 (R117, R118, R119): detection. Word 47 decides by its high byte when exactly one of its bytes is
0x80; else word 255 decides by its low byte when exactly one of its bytes is 0xA5 ("the table is this spec's reading of them",
R118, decision D12); else `UnknownEndianness`. -/
def Obligations.ResolveDetect : Prop :=
  ∀ (s : State) (hi47 lo47 hi255 lo255 : Byte), s.err = none → s.endn = .none → s.wcnt = 256#9 → s.mode = .detect →
    s.raw[47].extractLsb' 8 8 = hi47 → s.raw[47].extractLsb' 0 8 = lo47 →
    s.raw[255].extractLsb' 8 8 = hi255 → s.raw[255].extractLsb' 0 8 = lo255 →
    (hi47 = 0x80#8 → lo47 ≠ 0x80#8 →
      exec .resolve s = .next (s.answered { s.toBlock with endn := .native } true 0#16)) ∧
    (hi47 ≠ 0x80#8 → lo47 = 0x80#8 →
      exec .resolve s = .next (s.answered { s.toBlock with endn := .swapped } true 0#16)) ∧
    ((hi47 = 0x80#8 ↔ lo47 = 0x80#8) →
      (lo255 = 0xA5#8 → hi255 ≠ 0xA5#8 →
        exec .resolve s = .next (s.answered { s.toBlock with endn := .native } true 0#16)) ∧
      (lo255 ≠ 0xA5#8 → hi255 = 0xA5#8 →
        exec .resolve s = .next (s.answered { s.toBlock with endn := .swapped } true 0#16)) ∧
      ((lo255 = 0xA5#8 ↔ hi255 = 0xA5#8) → exec .resolve s = .next (faultTaken s .unknownEndianness)))

/-- 41_identity.md section 3 (R120): a record and its byte-swapped copy. (a) swapping twice is the identity; (b) if `RESOLVE`
resolves the one under `DETECT` it resolves the other, with the opposite order and the same resolved words; (c) if it is
inconclusive on the one it is on the other; (d) `REVERSE` on the one reads as `NATIVE` on the other. -/
def Obligations.SwappedCopyResolvesAlike : Prop :=
  ∀ s u : State, u = { s with raw := s.raw.map bswap16 } → s.err = none → s.endn = .none → s.wcnt = 256#9 →
    u.raw.map bswap16 = s.raw ∧
    (s.mode = .detect → ∀ t, exec .resolve s = .next t →
      (t.err = none → ∃ v, exec .resolve u = .next v ∧ v.err = none ∧
        (t.endn = .native ∧ v.endn = .swapped ∨ t.endn = .swapped ∧ v.endn = .native) ∧
        ∀ i : Fin 256, t.res i = v.res i) ∧
      (t.err = some .unknownEndianness → ∃ v, exec .resolve u = .next v ∧ v.err = some .unknownEndianness)) ∧
    (∃ t v, exec .resolve { s with mode := .reverse } = .next t ∧ exec .resolve { u with mode := .native } = .next v ∧
      ∀ i : Fin 256, t.res i = v.res i)

/-- R123: a `RESOLVE` that completed leaves `END` at `NATIVE` or `SWAPPED`; once resolved, `SETMODE`, `LDW` and a second `RESOLVE` raise `SequenceError`, no command but `RST` changes `END`,
and after a `RESOLVE` that faulted `LDW` is refused and no word but `RST` changes the block. -/
def Obligations.ResolvedOncePerRecord : Prop :=
  (∀ (s t : State) (r : RespWord), exec .resolve s = .next t → t.resps = s.resps ++ [r] → respOk r = true →
    t.endn = .native ∨ t.endn = .swapped) ∧
  (∀ (s : State) (m : BitVec 2) (w : IdWord), s.err = none → s.endn = .native ∨ s.endn = .swapped → m ≠ 3#2 →
    exec (.setmode m) s = .next (faultTaken s .sequenceError) ∧
    exec (.ldw w) s = .next (faultTaken s .sequenceError) ∧
    exec .resolve s = .next (faultTaken s .sequenceError)) ∧
  (∀ (s t : State) (c : CmdWord) (rest : List HostInput), s.inputs = .cmd c :: rest →
    s.endn = .native ∨ s.endn = .swapped → decode c ≠ some .rst → step s = .next t → t.endn = s.endn) ∧
  (∀ (s t : State) (w : IdWord), s.err = none → exec .resolve s = .next t → t.err ≠ none →
    exec (.ldw w) t = .next (refusalGiven t)) ∧
  (∀ (s t v : State) (c : CmdWord) (rest : List HostInput), s.err = none → exec .resolve s = .next t → t.err ≠ none →
    decode c ≠ some .rst → step { t with inputs := .cmd c :: rest } = .next v → v.toBlock = t.toBlock)

/-- R121: `RDW` of a loaded word answers it as loaded, whatever `END` and `ERR` are; of a word not loaded it is a sequence
error, or refused in the fault state. -/
def Obligations.RdwRule : Prop :=
  (∀ idx : BitVec 8, decode (0x12000000#32 ||| idx.setWidth 32) = some (.rdw idx)) ∧
  (∀ (s : State) (idx : BitVec 8),
    (idx.toNat < min s.wcnt.toNat 256 → exec (.rdw idx) s = .next (dataGiven s (s.raw[idx.toNat]'idx.isLt))) ∧
    (¬ idx.toNat < min s.wcnt.toNat 256 →
      (s.err = none → exec (.rdw idx) s = .next (faultTaken s .sequenceError)) ∧
      (s.err ≠ none → exec (.rdw idx) s = .next (refusalGiven s))))

/-- R122: `RDR` answers the resolved word, as loaded under `NATIVE` and with its bytes exchanged under `SWAPPED`; before a
resolution it is a sequence error; it is refused in the fault state. -/
def Obligations.RdrRule : Prop :=
  (∀ idx : BitVec 8, decode (0x13000000#32 ||| idx.setWidth 32) = some (.rdr idx)) ∧
  (∀ (s : State) (idx : BitVec 8),
    (s.err = none →
      (s.endn = .native → exec (.rdr idx) s = .next (dataGiven s (s.raw[idx.toNat]'idx.isLt))) ∧
      (s.endn = .swapped →
        exec (.rdr idx) s = .next (dataGiven s
          ((s.raw[idx.toNat]'idx.isLt).extractLsb' 0 8 ++ (s.raw[idx.toNat]'idx.isLt).extractLsb' 8 8))) ∧
      (s.endn = .none ∨ s.endn = .unknown → exec (.rdr idx) s = .next (faultTaken s .sequenceError))) ∧
    (s.err ≠ none → exec (.rdr idx) s = .next (refusalGiven s)))

/-- 20_memory.md section 2 (R53): what `bswap16` does to the two bytes, that it undoes itself, and the three examples. -/
def Obligations.ByteSwapUndoesItself : Prop :=
  (∀ w : IdWord, lowByte (bswap16 w) = highByte w ∧ highByte (bswap16 w) = lowByte w ∧ bswap16 (bswap16 w) = w) ∧
  bswap16 0x0080#16 = 0x8000#16 ∧ bswap16 0x12A5#16 = 0xA512#16 ∧ bswap16 0x8080#16 = 0x8080#16

/-! ## The password translator -/

/-- R140 and R141: folding changes the 26 capitals, by 0x20, and no other byte; a byte is recognised exactly when its folded
value is the code of one of the 38 characters, all different, so that no byte from 0x80 up is; in both digit orders. -/
def Obligations.AlphabetRule : Prop :=
  (∀ b : Byte, fold b = if 0x41 ≤ b.toNat ∧ b.toNat ≤ 0x5A then b + 0x20#8 else b) ∧
  ∃ alphabet : List Byte,
    alphabet =
      ['0', '1', '2', '3', '4', '5', '6', '7', '8', '9', 'q', 'w', 'e', 'r', 't', 'y', 'u', 'i', 'o', 'p',
       'a', 's', 'd', 'f', 'g', 'h', 'j', 'k', 'l', ';', 'z', 'x', 'c', 'v', 'b', 'n', 'm', ' '].map
        (fun ch => BitVec.ofNat 8 ch.toNat) ∧
    alphabet.length = 38 ∧ alphabet.Nodup ∧
    ∀ (d : DigitOrder) (b : Byte),
      (mapByte d b ≠ none ↔ fold b ∈ alphabet) ∧ (0x80 ≤ b.toNat → mapByte d b = none)

/-- R142: the five runs of the table, with the digits as the spec takes them, and that no other folded byte is in it; in both
digit orders exactly 64 of the 256 byte values are recognised, no table value is 0x00, the values are all different and the
largest is 0x39. -/
def Obligations.TranslationTable : Prop :=
  (['0', '1', '2', '3', '4', '5', '6', '7', '8', '9'].map fun ch => xlat .ascending (BitVec.ofNat 8 ch.toNat)) =
    (List.range 10).map (fun k => some (BitVec.ofNat 8 (2 + k))) ∧
  (∀ d : DigitOrder,
    (['q', 'w', 'e', 'r', 't', 'y', 'u', 'i', 'o', 'p'].map fun ch => xlat d (BitVec.ofNat 8 ch.toNat)) =
      (List.range 10).map (fun k => some (BitVec.ofNat 8 (16 + k))) ∧
    (['a', 's', 'd', 'f', 'g', 'h', 'j', 'k', 'l', ';'].map fun ch => xlat d (BitVec.ofNat 8 ch.toNat)) =
      (List.range 10).map (fun k => some (BitVec.ofNat 8 (30 + k))) ∧
    (['z', 'x', 'c', 'v', 'b', 'n', 'm'].map fun ch => xlat d (BitVec.ofNat 8 ch.toNat)) =
      (List.range 7).map (fun k => some (BitVec.ofNat 8 (44 + k))) ∧
    xlat d 0x20#8 = some 57#8 ∧
    (∀ c : Byte, xlat d c ≠ none ↔
      c = 0x20#8 ∨ c = 0x3B#8 ∨ 0x30 ≤ c.toNat ∧ c.toNat ≤ 0x39 ∨ 0x61 ≤ c.toNat ∧ c.toNat ≤ 0x7A) ∧
    (((List.range 256).map (BitVec.ofNat 8)).filter fun b => (mapByte d b).isSome).length = 64 ∧
    (∀ c v : Byte, xlat d c = some v → v ≠ 0x00#8 ∧ v.toNat ≤ 0x39) ∧
    (∀ c e v : Byte, xlat d c = some v → xlat d e = some v → c = e))

/-- R143: the digit run in its two settings, and that the settings differ on the ten digit characters only. -/
def Obligations.DigitOrderRule : Prop :=
  (∀ n : Fin 10, xlat .ascending (0x30#8 + BitVec.ofNat 8 n.val) = some (2#8 + BitVec.ofNat 8 n.val)) ∧
  (∀ n : Fin 9, xlat .keyboard (0x31#8 + BitVec.ofNat 8 n.val) = some (2#8 + BitVec.ofNat 8 n.val)) ∧
  xlat .keyboard 0x30#8 = some 11#8 ∧
  (∀ c : Byte, ¬ (0x30 ≤ c.toNat ∧ c.toNat ≤ 0x39) → xlat .ascending c = xlat .keyboard c)

/-- R144 and R145: `PWB` appends the mapped byte of a recognised character; with `TP` full it drops it and sets `TRUNC`; it
deletes any other byte; after `HASH` it is a sequence error, and with a bit of `arg[15:8]` set an illegal word. -/
def Obligations.PwbRule : Prop :=
  (∀ x : Byte, decode (0x20000000#32 ||| x.setWidth 32) = some (.pwb x)) ∧
  (∀ c : CmdWord, c.extractLsb' 24 8 = 0x20#8 → c.extractLsb' 8 8 ≠ 0#8 → RaisesIllegalCommand c) ∧
  (∀ (s : State) (x : Byte), s.err = none →
    (s.dvalid = true → exec (.pwb x) s = .next (faultTaken s .sequenceError)) ∧
    (s.dvalid = false →
      (∀ v, xlat s.cfg.digitOrder (fold x) = some v → s.plen.toNat < 64 →
        exec (.pwb x) s =
          .next (s.answered
            { s.toBlock with
              tp := s.tp.setIfInBounds s.plen.toNat v
              plen := s.plen + 1#7 } true 0#16)) ∧
      (∀ v, xlat s.cfg.digitOrder (fold x) = some v → s.plen.toNat = 64 →
        exec (.pwb x) s = .next (s.answered { s.toBlock with trunc := true } true 0#16)) ∧
      (xlat s.cfg.digitOrder (fold x) = none → exec (.pwb x) s = .next (dataGiven s 0#16))))

/-- 42_translator.md section 4 (R148): what any run of `PWB`s from an empty password leaves: the first 64 mapped bytes,
zero padded, `TRUNC` exactly when there were more, and nothing else of the block changed. -/
def Obligations.PasswordRunTranslates : Prop :=
  ∀ (s : State) (p : List Byte), s.err = none → s.dvalid = false → s.plen = 0#7 → s.trunc = false →
    s.tp = Vector.replicate 64 0x00#8 →
    ∃ t m, execAll (p.map .pwb) s = .next t ∧
      m = p.filterMap (fun x => xlat s.cfg.digitOrder (fold x)) ∧
      t.plen.toNat = min m.length 64 ∧
      (∀ i : Fin 64, t.tp[i] = m.getD i.val 0x00#8) ∧
      (t.trunc = true ↔ 64 < m.length) ∧
      { t.toBlock with tp := s.tp, plen := s.plen, trunc := s.trunc } = s.toBlock

/-- R147: `RDT` answers the byte of `TP`, zero-extended, in every phase but the fault state, where it is refused; at and
above `PLEN` that byte is 0x00; with a bit of `arg[15:6]` set the word is illegal. -/
def Obligations.RdtRule : Prop :=
  (∀ idx : BitVec 6, decode (0x21000000#32 ||| idx.setWidth 32) = some (.rdt idx)) ∧
  (∀ c : CmdWord, c.extractLsb' 24 8 = 0x21#8 → c.extractLsb' 6 10 ≠ 0#10 → RaisesIllegalCommand c) ∧
  (∀ (s : State) (idx : BitVec 6),
    (s.err = none → exec (.rdt idx) s = .next (dataGiven s ((s.tp[idx.toNat]'idx.isLt).setWidth 16))) ∧
    (s.err = none → Reachable s.toBlock → s.plen.toNat ≤ idx.toNat → exec (.rdt idx) s = .next (dataGiven s 0x0000#16)) ∧
    (s.err ≠ none → exec (.rdt idx) s = .next (refusalGiven s)))

/-! ## The digest engine -/

/-- R166: `HASH` on a resolved record without a digest writes the double hash of R162 to R165, `DVALID` and `ZBYTE`, and
nothing else; unresolved, or with a digest already there, it is a sequence error. -/
def Obligations.HashRule : Prop :=
  decode 0x30000000#32 = some .hash ∧
  ∀ s : State,
    (readyToHash s.toBlock → ∃ d : Vector Byte 32,
      d = sha256 ((sha256 s.tp.toList).toList.take 12 ++ s.fields) ∧
      exec .hash s =
        .next (s.answered
          { s.toBlock with digest := d, dvalid := true, zbyte := d.toList.contains 0x00#8 } true 0#16)) ∧
    (s.err = none → ¬ readyToHash s.toBlock → exec .hash s = .next (faultTaken s .sequenceError))

/-- R161: `FIELDS` is 60 bytes, two for each of the words 10..19 then 27..46 of the resolved record, low byte first. -/
def Obligations.FieldsSerialisation : Prop :=
  ∀ b : Block, b.fields.length = 60 ∧
    ∀ k : Fin 30, ∀ i : Fin 256, i.val = (if k.val < 10 then 10 + k.val else 17 + k.val) →
      b.fields[2 * k.val]? = some ((b.res i).extractLsb' 0 8) ∧
      b.fields[2 * k.val + 1]? = some ((b.res i).extractLsb' 8 8)

/-- R167: after a `HASH` that ran, `ZBYTE` is 1 exactly when some digest byte is 0x00; either way `DVALID` is set, no fault
is taken, and every digest byte can be read. -/
def Obligations.ZeroByteFlag : Prop :=
  ∀ s : State, readyToHash s.toBlock →
    ∃ t, exec .hash s = .next t ∧ (t.zbyte = true ↔ ∃ i : Fin 32, t.digest[i] = 0x00#8) ∧
      t.dvalid = true ∧ t.err = none ∧
      ∀ idx : BitVec 5, exec (.rdd idx) t = .next (dataGiven t ((t.digest[idx.toNat]'idx.isLt).setWidth 16))

/-- 43_digest.md section 3 (R160, R170): the digest depends on `TP` and on the resolved words 10..19 and 27..46 alone: two
blocks ready to hash that agree on those get the same digest, however they were loaded and resolved. -/
def Obligations.DigestDependsOnInputsOnly : Prop :=
  ∀ s u : State, readyToHash s.toBlock → readyToHash u.toBlock → s.tp = u.tp →
    (∀ i : Fin 256, (10 ≤ i.val ∧ i.val ≤ 19 ∨ 27 ≤ i.val ∧ i.val ≤ 46) → s.res i = u.res i) →
    ∃ t v, exec .hash s = .next t ∧ exec .hash u = .next v ∧ t.digest = v.digest ∧ t.zbyte = v.zbyte

/-- 43_digest.md section 2 (R169): each of the two hash calls is two compressions with a fixed second block or second
padding. -/
def Obligations.HashCallsAreTwoCompressions : Prop :=
  (∀ m : List Byte, m.length = 64 →
    sha256 m = (compress (compress hashInit m)
      (0x80#8 :: List.replicate 55 0x00#8 ++ [0x00#8, 0x00#8, 0x00#8, 0x00#8, 0x00#8, 0x00#8, 0x02#8, 0x00#8])).bytes) ∧
  (∀ m : List Byte, m.length = 72 →
    sha256 m = (compress (compress hashInit (m.take 64))
      (m.drop 64 ++ [0x80#8] ++ List.replicate 47 0x00#8 ++
        [0x00#8, 0x00#8, 0x00#8, 0x00#8, 0x00#8, 0x00#8, 0x02#8, 0x40#8])).bytes)

/-- 44_sha256.md section 3 (R185): the padding of a message of any length: a multiple of 64 bytes, the fewest zeros, the
length in bits in the last 8 bytes, most significant byte first. -/
def Obligations.PaddingShape : Prop :=
  ∀ m : List Byte, ∃ k, padMessage m = m ++ [0x80#8] ++ List.replicate k 0x00#8 ++ be64 (8 * m.length) ∧
    k < 64 ∧ (padMessage m).length % 64 = 0 ∧ (be64 (8 * m.length)).length = 8 ∧
    (∀ j : Fin 8, (be64 (8 * m.length))[j.val]? = some (BitVec.ofNat 8 (8 * m.length / 256 ^ (7 - j.val)))) ∧
    (∀ j < k, (m.length + 1 + j + 8) % 64 ≠ 0)

/-- 44_sha256.md section 4 (R187): the message schedule of a block of sixteen words: 64 words, the first sixteen the block's,
each later one from the four before it the rule names. -/
def Obligations.ScheduleRecurrence : Prop :=
  ∀ m : List ShaWord, m.length = 16 →
    (schedule m).length = 64 ∧
    (∀ t < 16, (schedule m).getD t 0#32 = m.getD t 0#32) ∧
    (∀ t, 16 ≤ t → t < 64 →
      (schedule m).getD t 0#32 =
        ssig1 ((schedule m).getD (t - 2) 0#32) + (schedule m).getD (t - 7) 0#32 +
          ssig0 ((schedule m).getD (t - 15) 0#32) + (schedule m).getD (t - 16) 0#32)

/-- 44_sha256.md section 5 (R190): the reference digests of `abc` and of 72 zero bytes. -/
def Obligations.Sha256ReferenceValues : Prop :=
  (sha256 [0x61#8, 0x62#8, 0x63#8]).toList =
    [0xba#8, 0x78#8, 0x16#8, 0xbf#8, 0x8f#8, 0x01#8, 0xcf#8, 0xea#8, 0x41#8, 0x41#8, 0x40#8, 0xde#8, 0x5d#8, 0xae#8, 0x22#8, 0x23#8,
     0xb0#8, 0x03#8, 0x61#8, 0xa3#8, 0x96#8, 0x17#8, 0x7a#8, 0x9c#8, 0xb4#8, 0x10#8, 0xff#8, 0x61#8, 0xf2#8, 0x00#8, 0x15#8, 0xad#8] ∧
  (sha256 (List.replicate 72 0x00#8)).toList =
    [0x83#8, 0x4a#8, 0x70#8, 0x9b#8, 0xa2#8, 0x53#8, 0x4e#8, 0xbe#8, 0x3e#8, 0xe1#8, 0x39#8, 0x7f#8, 0xd4#8, 0xf7#8, 0xbd#8, 0x28#8,
     0x8b#8, 0x2a#8, 0xcc#8, 0x1d#8, 0x20#8, 0xa0#8, 0x8d#8, 0x6c#8, 0x86#8, 0x2d#8, 0xcd#8, 0x99#8, 0xb6#8, 0xf0#8, 0x44#8, 0x00#8]

/-- R168: `RDD` answers the digest byte, zero-extended, while the digest is valid; before that it is a sequence error; it is
refused in the fault state; with a bit of `arg[15:5]` set the word is illegal. -/
def Obligations.RddRule : Prop :=
  (∀ idx : BitVec 5, decode (0x31000000#32 ||| idx.setWidth 32) = some (.rdd idx)) ∧
  (∀ c : CmdWord, c.extractLsb' 24 8 = 0x31#8 → c.extractLsb' 5 11 ≠ 0#11 → RaisesIllegalCommand c) ∧
  (∀ (s : State) (idx : BitVec 5),
    (s.err = none → s.dvalid = true →
      exec (.rdd idx) s = .next (dataGiven s ((s.digest[idx.toNat]'idx.isLt).setWidth 16))) ∧
    (s.err = none → s.dvalid = false → exec (.rdd idx) s = .next (faultTaken s .sequenceError)) ∧
    (s.err ≠ none → exec (.rdd idx) s = .next (refusalGiven s)))

/-! ## The whole machine -/

/-- 10_state.md section 9 (R40): the invariants hold after reset. -/
def Obligations.ReachableAtReset : Prop :=
  Reachable State.reset.toBlock

/-- 10_state.md section 9 (R40): every step, whatever the host presents, keeps the eight invariants. -/
def Obligations.ReachableKeptByEveryStep : Prop :=
  ∀ s t : State, Reachable s.toBlock → step s = .next t → Reachable t.toBlock

/-- 43_digest.md sections 3 and 4 (R166, R167, R242): every step keeps that a valid digest is the digest of the password and
the resolved record the block holds NOW, with its zero-byte flag. -/
def Obligations.ValidDigestStaysCurrent : Prop :=
  ∀ s t : State, Reachable s.toBlock →
    (s.dvalid = true → s.digest = s.toBlock.digestOf ∧ (s.zbyte = true ↔ 0x00#8 ∈ s.digest.toList)) →
    step s = .next t →
    (t.dvalid = true → t.digest = t.toBlock.digestOf ∧ (t.zbyte = true ↔ 0x00#8 ∈ t.digest.toList))

/-- 10_state.md section 9 (R39) and V1, V2: the words of `RAW` not loaded and an invalid `DIGEST` cannot be observed. Every
step keeps two blocks that differ only there indistinguishable, and answers both alike; so no claim about a response can rest
on the reset values of logs 3 and 4. -/
def Obligations.UnloadedStorageUnobservable : Prop :=
  ∀ s u t v : State, Indistinguishable s.toBlock u.toBlock → Reachable s.toBlock →
    s.cfg = u.cfg → s.inputs = u.inputs → s.resps = u.resps →
    step s = .next t → step u = .next v →
    Indistinguishable t.toBlock v.toBlock ∧ t.resps = v.resps ∧ t.cfg = v.cfg ∧ t.inputs = v.inputs

/-- R97 and R210: in the fault state `RST` leaves it, and no other word changes the block or `ERR`; `NOP`, `RDS` and `RDW` of
a loaded word answer `ok = 1` with the data they answer without a fault; everything else, illegal words included, answers
`ok = 0` and data 0; all with the standing code. -/
def Obligations.FaultStateRefusesTheRest : Prop :=
  (∀ (s : State) (rest : List HostInput), s.err ≠ none → s.inputs = .cmd 0x01000000#32 :: rest →
    ∃ t, step s = .next t ∧ t.err = none ∧ t.resps = s.resps ++ [0x00010000#32]) ∧
  (∀ (s : State) (f : FaultKind) (c : CmdWord) (rest : List HostInput),
    s.err = some f → s.inputs = .cmd c :: rest → decode c ≠ some .rst →
    ∃ t ok data, step s = .next t ∧ t.toBlock = s.toBlock ∧ t.resps = s.resps ++ [response (some f) ok data] ∧
      (ok = false → data = 0#16) ∧
      (ok = true ↔ (decode c = some .nop ∨ (∃ sel, decode c = some (.rds sel)) ∨
        ∃ idx, decode c = some (.rdw idx) ∧ idx.toNat < min s.wcnt.toNat 256)) ∧
      (ok = true → ∃ v, step { s with err := none } = .next v ∧ v.resps = s.resps ++ [response none true data]))

/-- R211: only the `RST` command and a hardware reset lead out of the fault state, and both discard the record, the password
and any digest. -/
def Obligations.OnlyResetLeavesTheFaultState : Prop :=
  ∀ s t : State, s.err ≠ none → step s = .next t → t.err = none →
    (∃ rest, s.inputs = .cmd 0x01000000#32 :: rest ∨ s.inputs = .hwReset :: rest) ∧
    t.wcnt = 0#9 ∧ t.endn = .none ∧ t.plen = 0#7 ∧ t.tp = Vector.replicate 64 0x00#8 ∧ t.dvalid = false

/-- R208 and R209: a word that faults writes `ERR`, and `END` for `UnknownEndianness`, and nothing else; every other effect
of the command is discarded. -/
def Obligations.FaultsArePrecise : Prop :=
  ∀ (s t : State) (f : FaultKind) (c : CmdWord) (rest : List HostInput),
    s.err = none → s.inputs = .cmd c :: rest → step s = .next t → t.err = some f →
    t = faultTaken { s with inputs := rest } f

/-- 60_exceptions.md sections 1 and 3 (R200 to R204, R207) and 41_identity.md section 3 (R114, R117 to R119): what each fault
means: the exact condition under which a word presented without a standing fault raises it, in the order of priority. The
test of word 255 is the spec's own reading ("the table is this spec's reading of them", R118, decision D12). -/
def Obligations.FaultCauses : Prop :=
  ∀ (s t : State) (c : CmdWord) (rest : List HostInput), s.err = none → s.inputs = .cmd c :: rest → step s = .next t →
    (t.err = some .illegalCommand ↔ decode c = none) ∧
    (t.err = some .sequenceError ↔ ∃ i, decode c = some i ∧
      (((∃ m, i = .setmode m) ∨ (∃ w, i = .ldw w) ∨ i = .resolve) ∧ s.endn ≠ .none ∨
        (∃ idx, i = .rdw idx ∧ ¬ idx.toNat < min s.wcnt.toNat 256) ∨
        ((∃ idx, i = .rdr idx) ∨ i = .hash) ∧ s.endn ≠ .native ∧ s.endn ≠ .swapped ∨
        ((∃ x, i = .pwb x) ∨ i = .hash) ∧ s.dvalid = true ∨
        (∃ idx, i = .rdd idx) ∧ s.dvalid = false)) ∧
    (t.err = some .malformedRecord ↔ decode c = some .resolve ∧ s.endn = .none ∧ s.wcnt ≠ 256#9) ∧
    (t.err = some .unknownEndianness ↔ decode c = some .resolve ∧ s.endn = .none ∧ s.wcnt = 256#9 ∧ s.mode = .detect ∧
      (s.raw[47].extractLsb' 8 8 = 0x80#8 ↔ s.raw[47].extractLsb' 0 8 = 0x80#8) ∧
      (s.raw[255].extractLsb' 8 8 = 0xA5#8 ↔ s.raw[255].extractLsb' 0 8 = 0xA5#8))

/-- 10_state.md sections 2 to 5 (R23 to R35, "Written only by"): which words may change each register; the configuration and
the counter of resets are changed by none. -/
def Obligations.EachRegisterHasItsWriters : Prop :=
  ∀ (s t : State) (c : CmdWord) (rest : List HostInput), s.inputs = .cmd c :: rest → step s = .next t →
    (t.raw ≠ s.raw → ∃ w, decode c = some (.ldw w)) ∧
    (t.wcnt ≠ s.wcnt → (∃ w, decode c = some (.ldw w)) ∨ decode c = some .rst) ∧
    (t.mode ≠ s.mode → (∃ m, decode c = some (.setmode m)) ∨ decode c = some .rst) ∧
    (t.endn ≠ s.endn → decode c = some .resolve ∨ decode c = some .rst) ∧
    (t.tp ≠ s.tp ∨ t.plen ≠ s.plen ∨ t.trunc ≠ s.trunc → (∃ x, decode c = some (.pwb x)) ∨ decode c = some .rst) ∧
    (t.digest ≠ s.digest → decode c = some .hash) ∧
    (t.dvalid ≠ s.dvalid ∨ t.zbyte ≠ s.zbyte → decode c = some .hash ∨ decode c = some .rst) ∧
    (s.err ≠ none → t.err ≠ s.err → decode c = some .rst) ∧
    t.cfg = s.cfg ∧ t.resets = s.resets

/-- 20_memory.md section 3 (R59): a read command that executes has no side effect and is idempotent: given again it answers
the same word and leaves the block the same. -/
def Obligations.ReadsAreIdempotent : Prop :=
  ∀ (i : Instr) (s t : State) (r : RespWord),
    ((∃ idx, i = .rdw idx) ∨ (∃ idx, i = .rdr idx) ∨ (∃ idx, i = .rdt idx) ∨ (∃ idx, i = .rdd idx) ∨ ∃ sel, i = .rds sel) →
    exec i s = .next t → t.resps = s.resps ++ [r] → respOk r = true →
    t.toBlock = s.toBlock ∧ ∃ v, exec i t = .next v ∧ v.toBlock = s.toBlock ∧ v.resps = t.resps ++ [r]

/-- 60_exceptions.md section 4 (R215): no partial output. Two states that differ in `DIGEST` alone answer every word alike,
and differ in `DIGEST` at most afterwards, unless the word is an `RDD` with no standing fault and `DVALID = 1`; `DVALID` is
set only by a `HASH` that leaves the complete digest; an `RDD` answers `ok = 1` only without a standing fault and with
`DVALID = 1`, and otherwise `ok = 0` and data 0. -/
def Obligations.NoPartialOutput : Prop :=
  (∀ (s t u : State) (d : Vector Byte 32) (c : CmdWord) (rest : List HostInput),
    s.inputs = .cmd c :: rest → step s = .next t → step { s with digest := d } = .next u →
    { u.toBlock with digest := t.digest } = t.toBlock ∧ u.inputs = t.inputs ∧
      (¬ ((∃ idx, decode c = some (.rdd idx)) ∧ s.err = none ∧ s.dvalid = true) → u.resps = t.resps)) ∧
  (∀ s t : State, step s = .next t → s.dvalid = false → t.dvalid = true →
    (∃ rest, s.inputs = .cmd 0x30000000#32 :: rest) ∧ s.err = none ∧ t.digest = s.toBlock.digestOf) ∧
  ∀ (s : State) (c : CmdWord) (rest : List HostInput) (idx : BitVec 5),
    s.inputs = .cmd c :: rest → decode c = some (.rdd idx) →
    ∃ t r, step s = .next t ∧ t.resps = s.resps ++ [r] ∧
      (respOk r = true ↔ s.err = none ∧ s.dvalid = true) ∧
      (respOk r = false → respData r = 0#16)

/-- 10_state.md section 8 (R38): the four phases are exhaustive and exclusive over reachable states. -/
def Obligations.PhasesPartitionReachableStates : Prop :=
  ∀ b : Block, Reachable b → ∃ p, b.inPhase p = true ∧ ∀ q, b.inPhase q = true → q = p
end

