-- ==== Sys2Proof/Laws/Bytes.lean ====
section
/-!
SUPPORT. The two bytes of a 16-bit word, taken apart and put together (R11, R53).
-/

namespace Sys2Proof.Machine

theorem lowByte_append (x y : Byte) : lowByte (x ++ y) = y := by
  apply BitVec.eq_of_getLsbD_eq
  intro i hi
  rw [lowByte, BitVec.getLsbD_extractLsb', BitVec.getLsbD_append]
  simp [hi]

theorem highByte_append (x y : Byte) : highByte (x ++ y) = x := by
  apply BitVec.eq_of_getLsbD_eq
  intro i hi
  rw [highByte, BitVec.getLsbD_extractLsb', BitVec.getLsbD_append]
  simp [hi]

theorem highByte_append_lowByte (w : IdWord) : highByte w ++ lowByte w = w := by
  apply BitVec.eq_of_getLsbD_eq
  intro i hi
  rw [BitVec.getLsbD_append]
  simp only [lowByte, highByte, BitVec.getLsbD_extractLsb']
  by_cases h : i < 8
  · simp [h]
  · simp [h, show 8 + (i - 8) = i by omega, show i - 8 < 8 by omega]

end Sys2Proof.Machine
end

