-- ==== Sys2Proof/Laws/Decode.lean ====
section
/-!
SUPPORT. The fields of an encoded word (R72, R78), and what the must-be-zero test of R74 says of a field.
-/

namespace Sys2Proof

theorem opOf_enc (op : BitVec 8) (arg : BitVec 16) : opOf (enc op arg) = op := by
  apply BitVec.eq_of_getLsbD_eq
  intro i hi
  simp [opOf, enc, hi, show 24 + i < 32 by omega, BitVec.getLsbD_of_ge arg (24 + i) (by omega)]

theorem rsvOf_enc (op : BitVec 8) (arg : BitVec 16) : rsvOf (enc op arg) = 0x00#8 := by
  apply BitVec.eq_of_getLsbD_eq
  intro i hi
  simp [rsvOf, enc, hi, show 16 + i < 24 by omega]

theorem argOf_enc (op : BitVec 8) (arg : BitVec 16) : argOf (enc op arg) = arg := by
  apply BitVec.eq_of_getLsbD_eq
  intro i hi
  simp [argOf, enc, hi, show i < 32 by omega, show i < 24 by omega]

/-- A word with `rsv` = 0 is the encoding of its own two fields. -/
theorem enc_fields (c : CmdWord) (h : rsvOf c = 0x00#8) : enc (opOf c) (argOf c) = c := by
  apply BitVec.eq_of_getLsbD_eq
  intro i hi
  by_cases h16 : i < 16
  · simp [enc, opOf, argOf, h16, hi, show i < 24 by omega]
  · by_cases h24 : i < 24
    · have hbit := congrArg (fun r : BitVec 8 => r.getLsbD (i - 16)) h
      simp only [rsvOf, BitVec.getLsbD_extractLsb', show i - 16 < 8 by omega, show 16 + (i - 16) = i by omega] at hbit
      simp [enc, opOf, argOf, h16, h24, BitVec.getLsbD_zero] at hbit ⊢
      simp [hbit]
    · simp [enc, opOf, argOf, h16, h24, hi, show i - 24 < 8 by omega, show 24 + (i - 24) = i by omega]

/-- Everything `argMask?` can answer is a row of the table (R74 items 1 and 3). -/
theorem argMask?_mem {op : BitVec 8} {mask : BitVec 16} (h : argMask? op = some mask) : (op, mask) ∈ argMasks := by
  unfold argMask? at h
  generalize argMasks = rows at h
  induction rows with
  | nil => simp at h
  | cons r rest ih =>
    obtain ⟨k, v⟩ := r
    by_cases hk : op = k
    · subst hk
      simp at h
      simp [h]
    · rw [List.lookup_cons, beq_eq_false_iff_ne.2 hk] at h
      exact List.mem_cons_of_mem _ (ih h)

/-- What legality says of a word (R74), in its three fields. -/
theorem legal_iff (c : CmdWord) : legal c = true ↔
    ∃ mask, argMask? (opOf c) = some mask ∧ rsvOf c = 0x00#8 ∧ argWithin mask (argOf c) = true ∧
      (opOf c = 0x02#8 ∨ opOf c = 0x03#8 → c.extractLsb' 0 2 ≠ 3#2) := by
  unfold legal
  cases argMask? (opOf c) with
  | none => simp
  | some mask => simp [and_assoc]; tauto

/-- The low field of `arg` is the low field of the word. -/
theorem argOf_low (c : CmdWord) {n : Nat} (hn : n ≤ 16) : (argOf c).extractLsb' 0 n = c.extractLsb' 0 n := by
  apply BitVec.eq_of_getLsbD_eq
  intro i hi
  simp [argOf, hi, show i < 16 by omega]

/-- An `arg` that sets no bit above its low `n` bits is those bits. -/
theorem setWidth_of_argWithin {n : Nat} {mask arg : BitVec 16} (h : argWithin mask arg = true)
    (hmask : ∀ i, i < 16 → n ≤ i → mask.getLsbD i = false) : (arg.extractLsb' 0 n).setWidth 16 = arg := by
  simp only [argWithin, beq_iff_eq] at h
  apply BitVec.eq_of_getLsbD_eq
  intro i hi
  by_cases hn : i < n
  · simp [hi, hn]
  · have hbit := congrArg (fun r : BitVec 16 => r.getLsbD i) h
    have hm := hmask i hi (by omega)
    rw [BitVec.getLsbD_eq_getElem hi] at hm
    simp [hi, hm] at hbit
    simp [hn, hi, hbit]

/-- A field narrower than `arg` sets no bit outside its own width. -/
theorem argWithin_setWidth {n : Nat} (v : BitVec n) (mask : BitVec 16)
    (hmask : ∀ i, i < n → mask.getLsbD i = true) : argWithin mask (v.setWidth 16) = true := by
  simp only [argWithin, beq_iff_eq]
  apply BitVec.eq_of_getLsbD_eq
  intro i hi
  by_cases h : i < n
  · simp [hmask i h]
  · simp [BitVec.getLsbD_setWidth, BitVec.getLsbD_of_ge v i (by omega)]

/-- A field read back from the `arg` it was put into. -/
theorem extract_setWidth {n : Nat} (hn : n ≤ 16) (v : BitVec n) : (v.setWidth 16).extractLsb' 0 n = v := by
  apply BitVec.eq_of_getLsbD_eq
  intro i hi
  simp [hi, show i < 16 by omega]

end Sys2Proof
end

