-- ==== Sys2Proof/Laws/State.lean ====
section
/-!
SUPPORT. One lemma per field per update: what each named update of the state leaves in each field, so that no later proof
unfolds a record update.
-/

namespace Sys2Proof.Machine

variable (b : Block) (s : State)

/-! ## `State.answered` -/

@[simp] theorem State.answered_toBlock (c ok data) : (s.answered c ok data).toBlock = c := rfl
@[simp] theorem State.answered_resps (c ok data) : (s.answered c ok data).resps = s.resps ++ [response c.err ok data] := rfl
@[simp] theorem State.answered_cfg (c ok data) : (s.answered c ok data).cfg = s.cfg := rfl
@[simp] theorem State.answered_inputs (c ok data) : (s.answered c ok data).inputs = s.inputs := rfl
@[simp] theorem State.answered_resets (c ok data) : (s.answered c ok data).resets = s.resets := rfl

/-! ## `Block.faulted` -/

@[simp] theorem Block.faulted_raw (k) : (b.faulted k).raw = b.raw := rfl
@[simp] theorem Block.faulted_wcnt (k) : (b.faulted k).wcnt = b.wcnt := rfl
@[simp] theorem Block.faulted_mode (k) : (b.faulted k).mode = b.mode := rfl
@[simp] theorem Block.faulted_endn (k) : (b.faulted k).endn = if k = .unknownEndianness then .unknown else b.endn := rfl
@[simp] theorem Block.faulted_tp (k) : (b.faulted k).tp = b.tp := rfl
@[simp] theorem Block.faulted_plen (k) : (b.faulted k).plen = b.plen := rfl
@[simp] theorem Block.faulted_trunc (k) : (b.faulted k).trunc = b.trunc := rfl
@[simp] theorem Block.faulted_digest (k) : (b.faulted k).digest = b.digest := rfl
@[simp] theorem Block.faulted_dvalid (k) : (b.faulted k).dvalid = b.dvalid := rfl
@[simp] theorem Block.faulted_zbyte (k) : (b.faulted k).zbyte = b.zbyte := rfl
@[simp] theorem Block.faulted_err (k) : (b.faulted k).err = some k := rfl

/-! ## `Block.cleared` -/

@[simp] theorem Block.cleared_raw : b.cleared.raw = b.raw := rfl
@[simp] theorem Block.cleared_wcnt : b.cleared.wcnt = 0#9 := rfl
@[simp] theorem Block.cleared_mode : b.cleared.mode = .detect := rfl
@[simp] theorem Block.cleared_endn : b.cleared.endn = .none := rfl
@[simp] theorem Block.cleared_tp : b.cleared.tp = Vector.replicate 64 0x00#8 := rfl
@[simp] theorem Block.cleared_plen : b.cleared.plen = 0#7 := rfl
@[simp] theorem Block.cleared_trunc : b.cleared.trunc = false := rfl
@[simp] theorem Block.cleared_digest : b.cleared.digest = b.digest := rfl
@[simp] theorem Block.cleared_dvalid : b.cleared.dvalid = false := rfl
@[simp] theorem Block.cleared_zbyte : b.cleared.zbyte = false := rfl
@[simp] theorem Block.cleared_err : b.cleared.err = none := rfl

/-! ## `Block.storeDigest` -/

@[simp] theorem Block.storeDigest_raw (d) : (b.storeDigest d).raw = b.raw := rfl
@[simp] theorem Block.storeDigest_wcnt (d) : (b.storeDigest d).wcnt = b.wcnt := rfl
@[simp] theorem Block.storeDigest_mode (d) : (b.storeDigest d).mode = b.mode := rfl
@[simp] theorem Block.storeDigest_endn (d) : (b.storeDigest d).endn = b.endn := rfl
@[simp] theorem Block.storeDigest_tp (d) : (b.storeDigest d).tp = b.tp := rfl
@[simp] theorem Block.storeDigest_plen (d) : (b.storeDigest d).plen = b.plen := rfl
@[simp] theorem Block.storeDigest_trunc (d) : (b.storeDigest d).trunc = b.trunc := rfl
@[simp] theorem Block.storeDigest_digest (d) : (b.storeDigest d).digest = d := rfl
@[simp] theorem Block.storeDigest_dvalid (d) : (b.storeDigest d).dvalid = true := rfl
@[simp] theorem Block.storeDigest_zbyte (d) : (b.storeDigest d).zbyte = hasZeroByte d := rfl
@[simp] theorem Block.storeDigest_err (d) : (b.storeDigest d).err = b.err := rfl

/-! ## `Block.loadWord`: the fields it leaves alone -/

@[simp] theorem Block.loadWord_mode (w) : (b.loadWord w).mode = b.mode := by
  unfold Block.loadWord; split <;> (try split) <;> rfl
@[simp] theorem Block.loadWord_endn (w) : (b.loadWord w).endn = b.endn := by
  unfold Block.loadWord; split <;> (try split) <;> rfl
@[simp] theorem Block.loadWord_tp (w) : (b.loadWord w).tp = b.tp := by
  unfold Block.loadWord; split <;> (try split) <;> rfl
@[simp] theorem Block.loadWord_plen (w) : (b.loadWord w).plen = b.plen := by
  unfold Block.loadWord; split <;> (try split) <;> rfl
@[simp] theorem Block.loadWord_trunc (w) : (b.loadWord w).trunc = b.trunc := by
  unfold Block.loadWord; split <;> (try split) <;> rfl
@[simp] theorem Block.loadWord_digest (w) : (b.loadWord w).digest = b.digest := by
  unfold Block.loadWord; split <;> (try split) <;> rfl
@[simp] theorem Block.loadWord_dvalid (w) : (b.loadWord w).dvalid = b.dvalid := by
  unfold Block.loadWord; split <;> (try split) <;> rfl
@[simp] theorem Block.loadWord_zbyte (w) : (b.loadWord w).zbyte = b.zbyte := by
  unfold Block.loadWord; split <;> (try split) <;> rfl
@[simp] theorem Block.loadWord_err (w) : (b.loadWord w).err = b.err := by
  unfold Block.loadWord; split <;> (try split) <;> rfl

/-! ## `Block.pushByte`: the fields it leaves alone -/

@[simp] theorem Block.pushByte_raw (d x) : (b.pushByte d x).raw = b.raw := by
  unfold Block.pushByte; split <;> (try split) <;> rfl
@[simp] theorem Block.pushByte_wcnt (d x) : (b.pushByte d x).wcnt = b.wcnt := by
  unfold Block.pushByte; split <;> (try split) <;> rfl
@[simp] theorem Block.pushByte_mode (d x) : (b.pushByte d x).mode = b.mode := by
  unfold Block.pushByte; split <;> (try split) <;> rfl
@[simp] theorem Block.pushByte_endn (d x) : (b.pushByte d x).endn = b.endn := by
  unfold Block.pushByte; split <;> (try split) <;> rfl
@[simp] theorem Block.pushByte_digest (d x) : (b.pushByte d x).digest = b.digest := by
  unfold Block.pushByte; split <;> (try split) <;> rfl
@[simp] theorem Block.pushByte_dvalid (d x) : (b.pushByte d x).dvalid = b.dvalid := by
  unfold Block.pushByte; split <;> (try split) <;> rfl
@[simp] theorem Block.pushByte_zbyte (d x) : (b.pushByte d x).zbyte = b.zbyte := by
  unfold Block.pushByte; split <;> (try split) <;> rfl
@[simp] theorem Block.pushByte_err (d x) : (b.pushByte d x).err = b.err := by
  unfold Block.pushByte; split <;> (try split) <;> rfl

/-! ## `hardwareReset` -/

@[simp] theorem hardwareReset_raw : (hardwareReset s).raw = Config.rawAfterReset s.resets := rfl
@[simp] theorem hardwareReset_wcnt : (hardwareReset s).wcnt = 0#9 := rfl
@[simp] theorem hardwareReset_mode : (hardwareReset s).mode = .detect := rfl
@[simp] theorem hardwareReset_endn : (hardwareReset s).endn = .none := rfl
@[simp] theorem hardwareReset_tp : (hardwareReset s).tp = Vector.replicate 64 0x00#8 := rfl
@[simp] theorem hardwareReset_plen : (hardwareReset s).plen = 0#7 := rfl
@[simp] theorem hardwareReset_trunc : (hardwareReset s).trunc = false := rfl
@[simp] theorem hardwareReset_digest : (hardwareReset s).digest = Config.digestAfterReset s.resets := rfl
@[simp] theorem hardwareReset_dvalid : (hardwareReset s).dvalid = false := rfl
@[simp] theorem hardwareReset_zbyte : (hardwareReset s).zbyte = false := rfl
@[simp] theorem hardwareReset_err : (hardwareReset s).err = none := rfl
@[simp] theorem hardwareReset_cfg : (hardwareReset s).cfg = s.cfg := rfl
@[simp] theorem hardwareReset_inputs : (hardwareReset s).inputs = s.inputs := rfl
@[simp] theorem hardwareReset_resps : (hardwareReset s).resps = s.resps := rfl
@[simp] theorem hardwareReset_resets : (hardwareReset s).resets = s.resets + 1 := rfl

/-! ## `Block.rawAt` and its like: reading an element -/

theorem Block.rawAt_eq (i : BitVec 8) : b.rawAt i = b.raw[i.toNat]'(i.isLt) := rfl
theorem Block.resAt_eq (i : BitVec 8) : b.resAt i = b.res i.toFin := rfl
theorem Block.tpAt_eq (i : BitVec 6) : b.tpAt i = b.tp[i.toNat]'(i.isLt) := rfl
theorem Block.digestAt_eq (i : BitVec 5) : b.digestAt i = b.digest[i.toNat]'(i.isLt) := rfl

end Sys2Proof.Machine
end

