-- ==== Sys2Proof/Laws/Ops.lean ====
section
/-!
SUPPORT. What each shared operation can do, said once: the pipeline of R90, the two writers of the stores (R112, R144), the
detector (R117 to R119), the resolved view (R27), and each command's meaning once the pipeline admits it.
-/

namespace Sys2Proof.Machine

variable {s : State} {b : Block}

/-! ## The pipeline (R90) -/

theorem answer_eq (s : State) (c : Block) (ok data) : answer s c ok data = .next (s.answered c ok data) := rfl

theorem respond_eq (s : State) (data) : respond s data = .next (s.answered s.toBlock true data) := rfl

theorem refuse_eq (s : State) : refuse s = .next (s.answered s.toBlock false 0#16) := rfl

theorem raise_eq (k : FaultKind) (s : State) : raise k s = .next (s.answered (s.toBlock.faulted k) false 0#16) := rfl

theorem illegalWord_noFault (h : s.err = none) : illegalWord s = raise .illegalCommand s := by
  simp [illegalWord, h]

theorem illegalWord_inFault (h : s.err ≠ none) : illegalWord s = refuse s := by
  simp [illegalWord, h]

/-- Stage 2 (R97): in the fault state a command that is not permitted is refused. -/
theorem runChecked_refused {i body} (h : s.err ≠ none) (hp : permittedInFault i s.toBlock = false) :
    runChecked i s body = refuse s := by
  simp [runChecked, h, hp]

/-- Stage 3 (R204): without a fault, a failed precondition is a sequence error. -/
theorem runChecked_sequenceError {i body} (h : s.err = none) (hp : precondition i s.toBlock = false) :
    runChecked i s body = raise .sequenceError s := by
  simp [runChecked, h, hp]

/-- Stage 4 without a standing fault. -/
theorem runChecked_noFault {i body} (h : s.err = none) (hp : precondition i s.toBlock = true) : runChecked i s body = body := by
  simp [runChecked, h, hp]

/-- Stage 4 in the fault state (R97). -/
theorem runChecked_inFault {i body} (h : s.err ≠ none) (hp : permittedInFault i s.toBlock = true) :
    runChecked i s body = body := by
  simp [runChecked, h, hp]

/-- Everything the pipeline can do with a legal command. -/
theorem runChecked_cases (i : Instr) (s : State) (body : StepOutcome) :
    (s.err ≠ none ∧ permittedInFault i s.toBlock = false ∧ runChecked i s body = refuse s) ∨
    (s.err = none ∧ precondition i s.toBlock = false ∧ runChecked i s body = raise .sequenceError s) ∨
    ((s.err = none ∧ precondition i s.toBlock = true ∨ s.err ≠ none ∧ permittedInFault i s.toBlock = true) ∧
      runChecked i s body = body) := by
  by_cases h : s.err = none
  · cases hp : precondition i s.toBlock
    · exact .inr (.inl ⟨h, rfl, runChecked_sequenceError h hp⟩)
    · exact .inr (.inr ⟨.inl ⟨h, rfl⟩, runChecked_noFault h hp⟩)
  · cases hp : permittedInFault i s.toBlock
    · exact .inl ⟨h, rfl, runChecked_refused h hp⟩
    · exact .inr (.inr ⟨.inr ⟨h, rfl⟩, runChecked_inFault h hp⟩)

/-! What the checks of stages 2 and 3 do not read: `MODE` and `DIGEST`. Cited by name: as rewrite rules their left sides would
match every block. -/

theorem permittedInFault_mode (i : Instr) (b : Block) (m : Mode) :
    permittedInFault i { b with mode := m } = permittedInFault i b := by cases i <;> rfl

theorem precondition_mode (i : Instr) (b : Block) (m : Mode) :
    precondition i { b with mode := m } = precondition i b := by cases i <;> rfl

theorem permittedInFault_digest (i : Instr) (b : Block) (d : Vector Byte 32) :
    permittedInFault i { b with digest := d } = permittedInFault i b := by cases i <;> rfl

theorem precondition_digest (i : Instr) (b : Block) (d : Vector Byte 32) :
    precondition i { b with digest := d } = precondition i b := by cases i <;> rfl

/-- A word that decodes runs its command. -/
theorem command_of_decode {c : CmdWord} {i : Instr} (h : decode c = some i) (s : State) : command c s = exec i s := by
  simp [command, h]

/-- A word that does not decode is an illegal word. -/
theorem command_of_illegal {c : CmdWord} (h : decode c = none) (s : State) : command c s = illegalWord s := by
  simp [command, h]

/-! ## The writers -/

/-- What `LDW` can do to the store (R112). -/
theorem Block.loadWord_cases (b : Block) (w : IdWord) :
    (b.wcnt < 256#9 ∧ b.loadWord w = { b with raw := b.raw.setIfInBounds b.wcnt.toNat w, wcnt := b.wcnt + 1#9 }) ∨
    (b.wcnt = 256#9 ∧ b.loadWord w = { b with wcnt := 257#9 }) ∨
    (256#9 < b.wcnt ∧ b.loadWord w = b) := by
  by_cases h : b.wcnt < 256#9
  · exact .inl ⟨h, by simp [Block.loadWord, h]⟩
  · by_cases h' : b.wcnt = 256#9
    · exact .inr (.inl ⟨h', by simp [Block.loadWord, h']⟩)
    · exact .inr (.inr ⟨by bv_omega, by simp [Block.loadWord, h, h']⟩)

/-- What `PWB` can do to the store (R144, R145). -/
theorem Block.pushByte_cases (b : Block) (d : DigitOrder) (x : Byte) :
    (mapByte d x = none ∧ b.pushByte d x = b) ∨
    (∃ m, mapByte d x = some m ∧ b.plen < 64#7 ∧
      b.pushByte d x = { b with tp := b.tp.setIfInBounds b.plen.toNat m, plen := b.plen + 1#7 }) ∨
    (∃ m, mapByte d x = some m ∧ 64#7 ≤ b.plen ∧ b.pushByte d x = { b with trunc := true }) := by
  cases hm : mapByte d x with
  | none => exact .inl ⟨rfl, by simp [Block.pushByte, hm]⟩
  | some m =>
    by_cases h : b.plen < 64#7
    · exact .inr (.inl ⟨m, rfl, h, by simp [Block.pushByte, hm, h]⟩)
    · exact .inr (.inr ⟨m, rfl, by bv_omega, by simp [Block.pushByte, hm, h]⟩)

/-! ## The resolved record (R26, R27) -/

theorem Block.resolved_iff (b : Block) : b.resolved = true ↔ b.endn = .native ∨ b.endn = .swapped := by
  unfold Block.resolved; cases b.endn <;> simp

theorem Block.loaded_iff (b : Block) (i : BitVec 8) : b.loaded i = true ↔ i.toNat < min b.wcnt.toNat 256 := by
  simp [Block.loaded, Config.nWords]

@[simp] theorem resIn_native (raw : Vector IdWord 256) (i : Fin 256) : resIn .native raw i = raw[i] := rfl

@[simp] theorem resIn_swapped (raw : Vector IdWord 256) (i : Fin 256) : resIn .swapped raw i = bswap16 raw[i] := rfl

/-! ## Each meaning, once the pipeline admits it -/

/-- `i` reaches stage 4 of R90 in the block `b`. -/
def Admitted (i : Instr) (b : Block) : Prop :=
  b.err = none ∧ precondition i b = true ∨ b.err ≠ none ∧ permittedInFault i b = true

theorem runChecked_admitted {i : Instr} {body : StepOutcome} (h : Admitted i s.toBlock) : runChecked i s body = body := by
  rcases h with ⟨h, hp⟩ | ⟨h, hp⟩
  · exact runChecked_noFault h hp
  · exact runChecked_inFault h hp

theorem execNop_eq (s : State) : execNop s = .next (s.answered s.toBlock true 0#16) := by
  by_cases h : s.err = none <;> simp [execNop, runChecked, h, permittedInFault, precondition, respond_eq]

theorem execRst_eq (s : State) : execRst s = .next (s.answered s.toBlock.cleared true 0#16) := by
  by_cases h : s.err = none <;> simp [execRst, runChecked, h, permittedInFault, precondition, answer_eq]

theorem execSetmode_run {mode m} (hm : modeOf? mode = some m) (h : Admitted (.setmode mode) s.toBlock) :
    execSetmode mode s = .next (s.answered { s.toBlock with mode := m } true 0#16) := by
  simp [execSetmode, hm, runChecked_admitted h, answer_eq]

theorem execRds_run {sel data} (hd : s.toBlock.status? sel = some data) :
    execRds sel s = .next (s.answered s.toBlock true data) := by
  by_cases h : s.err = none <;> simp [execRds, hd, runChecked, h, permittedInFault, precondition, respond_eq]

theorem execLdw_run {w} (h : Admitted (.ldw w) s.toBlock) :
    execLdw w s = .next (s.answered (s.toBlock.loadWord w) true 0#16) := by
  simp [execLdw, runChecked_admitted h, answer_eq]

theorem execResolve_miscounted (h : Admitted .resolve s.toBlock) (hc : s.wcnt ≠ 256#9) :
    execResolve s = .next (s.answered (s.toBlock.faulted .malformedRecord) false 0#16) := by
  simp [execResolve, runChecked_admitted h, hc, raise_eq]

theorem execResolve_run {o} (h : Admitted .resolve s.toBlock) (hc : s.wcnt = 256#9)
    (ho : s.toBlock.orderToFix = some o) :
    execResolve s = .next (s.answered { s.toBlock with endn := o } true 0#16) := by
  simp [execResolve, runChecked_admitted h, hc, ho, answer_eq]

theorem execResolve_inconclusive (h : Admitted .resolve s.toBlock) (hc : s.wcnt = 256#9)
    (ho : s.toBlock.orderToFix = none) :
    execResolve s = .next (s.answered (s.toBlock.faulted .unknownEndianness) false 0#16) := by
  simp [execResolve, runChecked_admitted h, hc, ho, raise_eq]

theorem execRdw_run {i} (h : Admitted (.rdw i) s.toBlock) :
    execRdw i s = .next (s.answered s.toBlock true (s.toBlock.rawAt i)) := by
  simp [execRdw, runChecked_admitted h, respond_eq]

theorem execRdr_run {i} (h : Admitted (.rdr i) s.toBlock) :
    execRdr i s = .next (s.answered s.toBlock true (s.toBlock.resAt i)) := by
  simp [execRdr, runChecked_admitted h, respond_eq]

theorem execPwb_run {x} (h : Admitted (.pwb x) s.toBlock) :
    execPwb x s = .next (s.answered (s.toBlock.pushByte s.cfg.digitOrder x) true 0#16) := by
  simp [execPwb, runChecked_admitted h, answer_eq]

theorem execRdt_run {i} (h : Admitted (.rdt i) s.toBlock) :
    execRdt i s = .next (s.answered s.toBlock true ((s.toBlock.tpAt i).setWidth 16)) := by
  simp [execRdt, runChecked_admitted h, respond_eq]

theorem execHash_run (h : Admitted .hash s.toBlock) :
    execHash s = .next (s.answered (s.toBlock.storeDigest s.toBlock.digestOf) true 0#16) := by
  simp [execHash, runChecked_admitted h, answer_eq]

theorem execRdd_run {i} (h : Admitted (.rdd i) s.toBlock) :
    execRdd i s = .next (s.answered s.toBlock true ((s.toBlock.digestAt i).setWidth 16)) := by
  simp [execRdd, runChecked_admitted h, respond_eq]

end Sys2Proof.Machine
end

