-- ==== Sys2Proof/Laws/Exec.lean ====
section
/-!
SUPPORT. Everything a command and a step can do, said once (the inversion lemmas `exec_cases` and `step_cases`): proofs about
the whole machine cite them and never unfold a meaning.
-/

namespace Sys2Proof.Machine

/-- The end of stage 4 for each command: the block, `ok` and the data it ends with (40_control.md to 43_digest.md). -/
def Effect (i : Instr) (s : State) (b : Block) (ok : Bool) (data : BitVec 16) : Prop :=
  match i with
  | .nop => b = s.toBlock ∧ ok = true ∧ data = 0#16
  | .rst => b = s.toBlock.cleared ∧ ok = true ∧ data = 0#16
  | .setmode mode => ∃ m, modeOf? mode = some m ∧ b = { s.toBlock with mode := m } ∧ ok = true ∧ data = 0#16
  | .rds sel => s.toBlock.status? sel = some data ∧ b = s.toBlock ∧ ok = true
  | .ldw w => b = s.toBlock.loadWord w ∧ ok = true ∧ data = 0#16
  | .resolve =>
    (s.wcnt ≠ 256#9 ∧ b = s.toBlock.faulted .malformedRecord ∧ ok = false ∧ data = 0#16) ∨
    (s.wcnt = 256#9 ∧ ∃ o, s.toBlock.orderToFix = some o ∧ b = { s.toBlock with endn := o } ∧ ok = true ∧ data = 0#16) ∨
    (s.wcnt = 256#9 ∧ s.toBlock.orderToFix = none ∧ b = s.toBlock.faulted .unknownEndianness ∧ ok = false ∧ data = 0#16)
  | .rdw idx => b = s.toBlock ∧ ok = true ∧ data = s.toBlock.rawAt idx
  | .rdr idx => b = s.toBlock ∧ ok = true ∧ data = s.toBlock.resAt idx
  | .pwb x => b = s.toBlock.pushByte s.cfg.digitOrder x ∧ ok = true ∧ data = 0#16
  | .rdt idx => b = s.toBlock ∧ ok = true ∧ data = (s.toBlock.tpAt idx).setWidth 16
  | .hash => b = s.toBlock.storeDigest s.toBlock.digestOf ∧ ok = true ∧ data = 0#16
  | .rdd idx => b = s.toBlock ∧ ok = true ∧ data = (s.toBlock.digestAt idx).setWidth 16

/-- A legal mode operand names a mode. -/
theorem modeOf?_isSome {mode : BitVec 2} (h : mode ≠ 3#2) : ∃ m, modeOf? mode = some m := by
  have all : ∀ x : BitVec 2, x ≠ 3#2 → (modeOf? x).isSome = true := by decide
  exact Option.isSome_iff_exists.1 (all mode h)

/-- A legal selector names a status view. -/
theorem status?_isSome (b : Block) {sel : BitVec 2} (h : sel ≠ 3#2) : ∃ data, b.status? sel = some data := by
  have all : ∀ x : BitVec 2, x ≠ 3#2 → x = 0#2 ∨ x = 1#2 ∨ x = 2#2 := by decide
  rcases all sel h with rfl | rfl | rfl <;> simp [Block.status?]

/-- A well-formed command is its stages 2 and 3 around one of its own effects. -/
theorem exec_eq_runChecked {i : Instr} (hw : i.wf = true) (s : State) :
    ∃ b ok data, Effect i s b ok data ∧ exec i s = runChecked i s (answer s b ok data) := by
  cases i with
  | nop => exact ⟨_, _, _, ⟨rfl, rfl, rfl⟩, rfl⟩
  | rst => exact ⟨_, _, _, ⟨rfl, rfl, rfl⟩, rfl⟩
  | setmode mode =>
    obtain ⟨m, hm⟩ := modeOf?_isSome (mode := mode) (by simpa [Instr.wf] using hw)
    exact ⟨_, _, _, ⟨m, hm, rfl, rfl, rfl⟩, by simp [exec, execSetmode, hm]⟩
  | rds sel =>
    obtain ⟨data, hd⟩ := status?_isSome s.toBlock (sel := sel) (by simpa [Instr.wf] using hw)
    exact ⟨_, _, _, ⟨hd, rfl, rfl⟩, by simp [exec, execRds, hd, respond]⟩
  | ldw w => exact ⟨_, _, _, ⟨rfl, rfl, rfl⟩, rfl⟩
  | resolve =>
    by_cases hc : s.wcnt = 256#9
    · cases ho : s.toBlock.orderToFix with
      | some o => exact ⟨_, _, _, .inr (.inl ⟨hc, o, ho, rfl, rfl, rfl⟩), by simp [exec, execResolve, hc, ho]⟩
      | none => exact ⟨_, _, _, .inr (.inr ⟨hc, ho, rfl, rfl, rfl⟩), by simp [exec, execResolve, hc, ho, raise]⟩
    · exact ⟨_, _, _, .inl ⟨hc, rfl, rfl, rfl⟩, by simp [exec, execResolve, hc, raise]⟩
  | rdw idx => exact ⟨_, _, _, ⟨rfl, rfl, rfl⟩, rfl⟩
  | rdr idx => exact ⟨_, _, _, ⟨rfl, rfl, rfl⟩, rfl⟩
  | pwb x => exact ⟨_, _, _, ⟨rfl, rfl, rfl⟩, rfl⟩
  | rdt idx => exact ⟨_, _, _, ⟨rfl, rfl, rfl⟩, rfl⟩
  | hash => exact ⟨_, _, _, ⟨rfl, rfl, rfl⟩, rfl⟩
  | rdd idx => exact ⟨_, _, _, ⟨rfl, rfl, rfl⟩, rfl⟩

/-- Everything a well-formed command can do: be refused, fail its sequence check, or end as its own effect says. -/
theorem exec_cases {i : Instr} (hw : i.wf = true) (s : State) :
    (s.err ≠ none ∧ permittedInFault i s.toBlock = false ∧
      exec i s = .next (s.answered s.toBlock false 0#16)) ∨
    (s.err = none ∧ precondition i s.toBlock = false ∧
      exec i s = .next (s.answered (s.toBlock.faulted .sequenceError) false 0#16)) ∨
    (Admitted i s.toBlock ∧ ∃ b ok data, Effect i s b ok data ∧ exec i s = .next (s.answered b ok data)) := by
  obtain ⟨b, ok, data, he, hx⟩ := exec_eq_runChecked hw s
  rcases runChecked_cases i s (answer s b ok data) with ⟨h, hp, hr⟩ | ⟨h, hp, hr⟩ | ⟨h, hr⟩
  · exact .inl ⟨h, hp, by rw [hx, hr, refuse_eq]⟩
  · exact .inr (.inl ⟨h, hp, by rw [hx, hr, raise_eq]⟩)
  · exact .inr (.inr ⟨h, b, ok, data, he, by rw [hx, hr, answer_eq]⟩)

/-- Everything an accepted word can do. -/
theorem command_cases (c : CmdWord) (s : State) :
    (∃ i, decode c = some i ∧ command c s = exec i s) ∨
    (decode c = none ∧ s.err = none ∧ command c s = .next (s.answered (s.toBlock.faulted .illegalCommand) false 0#16)) ∨
    (decode c = none ∧ s.err ≠ none ∧ command c s = .next (s.answered s.toBlock false 0#16)) := by
  cases hd : decode c with
  | some i => exact .inl ⟨i, rfl, command_of_decode hd s⟩
  | none =>
    by_cases h : s.err = none
    · exact .inr (.inl ⟨rfl, h, by rw [command_of_illegal hd, illegalWord_noFault h, raise_eq]⟩)
    · exact .inr (.inr ⟨rfl, h, by rw [command_of_illegal hd, illegalWord_inFault h, refuse_eq]⟩)

theorem step_idle {s : State} (h : s.inputs = []) : step s = .next s := by
  simp [step, h]

theorem step_command {s : State} {c : CmdWord} {rest : List HostInput} (h : s.inputs = .cmd c :: rest) :
    step s = command c { s with inputs := rest } := by
  simp [step, h]

theorem step_reset {s : State} {rest : List HostInput} (h : s.inputs = .hwReset :: rest) :
    step s = .next (hardwareReset { s with inputs := rest }) := by
  simp [step, h]

/-- Everything a step can be. -/
theorem step_cases (s : State) :
    (s.inputs = [] ∧ step s = .next s) ∨
    (∃ c rest, s.inputs = .cmd c :: rest ∧ step s = command c { s with inputs := rest }) ∨
    (∃ rest, s.inputs = .hwReset :: rest ∧ step s = .next (hardwareReset { s with inputs := rest })) := by
  match h : s.inputs with
  | [] => exact .inl ⟨rfl, step_idle h⟩
  | .cmd c :: rest => exact .inr (.inl ⟨c, rest, rfl, step_command h⟩)
  | .hwReset :: rest => exact .inr (.inr ⟨rest, rfl, step_reset h⟩)

end Sys2Proof.Machine
end

