-- ==== Sys2Proof/Laws/PerInstr.lean ====
section
/-!
SUPPORT. The family `EncodedFields`, made per constructor: the three fields of a command's word (R72, R78) and that its `arg`
sets no bit outside the command's own field (R73).
-/

namespace Sys2Proof.Laws.EncodedFields

/-- The word of a command carries its opcode, `rsv` = 0x00 and its operand, within `ARGMASK` (R72, R73, R74 item 3). -/
def Statement (i : Instr) : Prop :=
  opOf (encode i) = opcode i ∧ rsvOf (encode i) = 0x00#8 ∧ argOf (encode i) = argField i ∧
    (argMask? (opcode i)).any (fun mask => argWithin mask (argField i)) = true

/-- The first three parts hold of every encoding; the fourth is what a constructor has to say. -/
theorem of_within {i : Instr} (h : (argMask? (opcode i)).any (fun mask => argWithin mask (argField i)) = true) :
    Statement i :=
  ⟨opOf_enc _ _, rsvOf_enc _ _, argOf_enc _ _, h⟩

theorem nop : Statement .nop := of_within (by decide)
theorem rst : Statement .rst := of_within (by decide)
theorem setmode (mode : BitVec 2) : Statement (.setmode mode) :=
  of_within (argWithin_setWidth mode 0x0003#16 (by decide))
theorem rds (sel : BitVec 2) : Statement (.rds sel) :=
  of_within (argWithin_setWidth sel 0x0003#16 (by decide))
theorem ldw (imm16 : BitVec 16) : Statement (.ldw imm16) := by
  have h := argWithin_setWidth imm16 0xFFFF#16 (by decide)
  rw [BitVec.setWidth_eq] at h
  exact of_within h
theorem resolve : Statement .resolve := of_within (by decide)
theorem rdw (idx : BitVec 8) : Statement (.rdw idx) :=
  of_within (argWithin_setWidth idx 0x00FF#16 (by decide))
theorem rdr (idx : BitVec 8) : Statement (.rdr idx) :=
  of_within (argWithin_setWidth idx 0x00FF#16 (by decide))
theorem pwb (imm8 : BitVec 8) : Statement (.pwb imm8) :=
  of_within (argWithin_setWidth imm8 0x00FF#16 (by decide))
theorem rdt (idx : BitVec 6) : Statement (.rdt idx) :=
  of_within (argWithin_setWidth idx 0x003F#16 (by decide))
theorem hash : Statement .hash := of_within (by decide)
theorem rdd (idx : BitVec 5) : Statement (.rdd idx) :=
  of_within (argWithin_setWidth idx 0x001F#16 (by decide))

end Sys2Proof.Laws.EncodedFields
end

