-- ==== Sys2Proof/Tests/Slice0.lean ====
section
/-!
SUPPORT. The model's own tests. Expected values come from the spec: its rules' examples and the vectors of
95_test_vectors.md, named in each comment. The `witness_` theorems show that the hypotheses of each statement can be met
together, clause by clause.
-/

namespace Sys2Proof.Tests

open Sys2Proof.Machine Sys2Proof.Safety

/-! ## Helpers -/

/-- The state a step or command leaves, if it goes on. -/
def after : StepOutcome → Option State
  | .next t => some t
  | .fault _ => none
  | .refused _ => none

/-- The last response word of an outcome. -/
def answerOf (o : StepOutcome) : Option RespWord := (after o).bind fun t => t.resps.getLast?

/-- A view of the state an outcome leaves. -/
def leaves {α : Type} (o : StepOutcome) (f : State → α) : Option α := (after o).map f

/-- 256 words, all 0 but words 47 and 255, in a mode, not resolved yet. -/
def record (w47 w255 : IdWord) (m : Mode) : State :=
  { State.reset with
    raw := ((Vector.replicate 256 0x0000#16).set 47 w47).set 255 w255
    wcnt := 256#9
    mode := m }

/-- A record resolved to `NATIVE`, without a digest. -/
def ready : State := { record 0x8000#16 0x00A5#16 .detect with endn := .native }

/-- The same with a digest of all 0x01. -/
def done : State := { ready with digest := Vector.replicate 32 0x01#8, dvalid := true }

/-- Out of reset, with a fault standing. -/
def faulty (f : FaultKind) : State := { State.reset with err := some f }

/-- A state with one command word presented. -/
def presented (s : State) (c : CmdWord) : State := { s with inputs := [.cmd c] }

/-! ## Syntax, encodings -/

/-- WellFormed smoke: each of the two checks refuses its ill-formed term (R74 item 4). -/
theorem test_wf_refuses_setmode_3 : (Instr.setmode 3#2).wf = false := by decide
theorem test_wf_refuses_rds_3 : (Instr.rds 3#2).wf = false := by decide
theorem test_wf_accepts_the_rest : (Instr.setmode 2#2).wf = true ∧ (Instr.rds 2#2).wf = true ∧ Instr.hash.wf = true := by
  decide

/-! Words written out field by field from R72 and R73: `op`, `rsv`, `arg`. -/

theorem test_decode_nop : decode (0b00000000#8 ++ 0b00000000#8 ++ 0b0000000000000000#16) = some .nop := by decide
theorem test_decode_rst : decode (0b00000001#8 ++ 0b00000000#8 ++ 0b0000000000000000#16) = some .rst := by decide
theorem test_decode_setmode : decode (0b00000010#8 ++ 0b00000000#8 ++ 0b0000000000000001#16) = some (.setmode 1#2) := by
  decide
theorem test_decode_rds : decode (0b00000011#8 ++ 0b00000000#8 ++ 0b0000000000000010#16) = some (.rds 2#2) := by decide
theorem test_decode_ldw : decode (0b00010000#8 ++ 0b00000000#8 ++ 0b1011111011101111#16) = some (.ldw 0xBEEF#16) := by
  decide
theorem test_decode_resolve : decode (0b00010001#8 ++ 0b00000000#8 ++ 0b0000000000000000#16) = some .resolve := by decide
theorem test_decode_rdw : decode (0b00010010#8 ++ 0b00000000#8 ++ 0b0000000011111111#16) = some (.rdw 255#8) := by decide
theorem test_decode_rdr : decode (0b00010011#8 ++ 0b00000000#8 ++ 0b0000000000101111#16) = some (.rdr 47#8) := by decide
theorem test_decode_pwb : decode (0b00100000#8 ++ 0b00000000#8 ++ 0b0000000001010100#16) = some (.pwb 0x54#8) := by decide
theorem test_decode_rdt : decode (0b00100001#8 ++ 0b00000000#8 ++ 0b0000000000111111#16) = some (.rdt 63#6) := by decide
theorem test_decode_hash : decode (0b00110000#8 ++ 0b00000000#8 ++ 0b0000000000000000#16) = some .hash := by decide
theorem test_decode_rdd : decode (0b00110001#8 ++ 0b00000000#8 ++ 0b0000000000011111#16) = some (.rdd 31#5) := by decide

/-- S50 to S59a: illegal words. -/
theorem test_decode_refuses_illegal_words :
    ([0x04000000#32, 0xFF000000#32, 0x0F000000#32, 0x32000000#32, 0x00000001#32, 0x00010000#32, 0x02000003#32,
      0x03000003#32, 0x10010000#32, 0x12000100#32, 0x20000100#32, 0x21000040#32, 0x31000020#32, 0x30000001#32,
      0x11008000#32].map decode).all Option.isNone = true := by decide

/-- R78's examples, and the host's numbering of a row's bits. -/
theorem test_encode_examples :
    encode (.ldw 0x0080#16) = 0x10000080#32 ∧ encode (.pwb 0x74#8) = 0x20000074#32 ∧
    encode (.rdd 31#5) = 0x3100001F#32 ∧ encode (.setmode 2#2) = 0x02000002#32 ∧
    decodeTableWord 32 0x3100001F = some (.rdd 31#5) := by decide

/-! ## One step of each command -/

/-- S1, and the fault state's `03010000` after S50. -/
theorem test_nop_answers : answerOf (step (presented State.reset 0x00000000#32)) = some 0x00010000#32 ∧
    answerOf (step (presented (faulty .illegalCommand) 0x00000000#32)) = some 0x03010000#32 := by decide +kernel

/-- S4: `RST` leaves the fault state and answers with `err` = 0. -/
theorem test_rst_leaves_fault_state :
    answerOf (step (presented { faulty .malformedRecord with wcnt := 255#9 } 0x01000000#32)) = some 0x00010000#32 ∧
    leaves (step (presented { faulty .malformedRecord with wcnt := 255#9 } 0x01000000#32)) (fun t => (t.wcnt, t.err)) =
      some (0#9, none) := by decide +kernel

/-- S3, and S66's sequence error. -/
theorem test_setmode_reverse : leaves (step (presented State.reset 0x02000002#32)) (fun t => (t.mode, t.resps)) =
    some (.reverse, [0x00010000#32]) := by decide +kernel
theorem test_setmode_after_resolution : answerOf (step (presented done 0x02000001#32)) = some 0x04000000#32 := by
  decide +kernel

/-- R95's example after P1 (`END` = 2, `DVALID` = 1), and P3's `RDS wcnt` in the fault state. -/
theorem test_rds_flags : answerOf (exec (.rds 0#2) { done with endn := .swapped }) = some 0x00010018#32 := by decide +kernel
theorem test_rds_wcnt_in_fault_state :
    answerOf (step (presented { faulty .malformedRecord with wcnt := 255#9 } 0x03000001#32)) = some 0x010100FF#32 := by
  decide +kernel

/-- R112's example: the 48th `LDW`. S5: the 257th and the 258th store nothing and the count sticks at 257. -/
theorem test_ldw_stores :
    leaves (step (presented { State.reset with wcnt := 47#9 } 0x10000080#32)) (fun t => (t.raw[47], t.wcnt, t.resps)) =
      some (0x0080#16, 48#9, [0x00010000#32]) := by decide +kernel
theorem test_ldw_too_many :
    leaves (exec (.ldw 0xBEEF#16) { State.reset with wcnt := 256#9 }) (fun t => (t.raw[255], t.wcnt)) = some (0#16, 257#9) ∧
    leaves (exec (.ldw 0xBEEF#16) { State.reset with wcnt := 257#9 }) (fun t => (t.raw[255], t.wcnt)) = some (0#16, 257#9) := by
  decide +kernel

/-- The resolution vectors S10 to S16g: word 47, word 255, `END` afterwards. -/
theorem test_resolve_vectors :
    ([(0x8000#16, 0x0000#16, Order.native), (0x0080#16, 0x0000#16, .swapped), (0x8080#16, 0x0000#16, .unknown),
      (0x8080#16, 0x00A5#16, .native), (0x8080#16, 0xA500#16, .swapped), (0x8080#16, 0xA5A5#16, .unknown),
      (0x0000#16, 0x00A5#16, .native), (0x0000#16, 0xA500#16, .swapped), (0x0000#16, 0xA5A5#16, .unknown),
      (0x0000#16, 0x0000#16, .unknown), (0x8012#16, 0xA500#16, .native), (0x1280#16, 0x00A5#16, .swapped),
      (0x80A5#16, 0xA580#16, .native), (0x7F80#16, 0x0000#16, .swapped), (0x0081#16, 0x12A5#16, .native),
      (0x8080#16, 0xA4A5#16, .native), (0xFFFF#16, 0xFFFF#16, .unknown)].all fun v =>
        leaves (exec .resolve (record v.1 v.2.1 .detect)) (fun t => (t.endn, t.resps)) ==
          some (v.2.2, [if v.2.2 = .unknown then 0x02000000#32 else 0x00010000#32])) = true := by decide +kernel

/-- S17 to S19: forced modes; S5a: a miscounted record. -/
theorem test_resolve_forced_and_miscounted :
    leaves (exec .resolve (record 0x0000#16 0x0000#16 .native)) (fun t => t.endn) = some .native ∧
    leaves (exec .resolve (record 0x8000#16 0x00A5#16 .reverse)) (fun t => t.endn) = some .swapped ∧
    leaves (exec .resolve State.reset) (fun t => (t.endn, t.resps)) = some (.none, [0x01000000#32]) := by decide +kernel

/-- R121's example, and P3's refusal of a word not loaded. -/
theorem test_rdw : answerOf (exec (.rdw 47#8) (record 0x0080#16 0#16 .detect)) = some 0x00010080#32 ∧
    answerOf (exec (.rdw 255#8) { faulty .malformedRecord with wcnt := 255#9 }) = some 0x01000000#32 ∧
    answerOf (exec (.rdw 0#8) State.reset) = some 0x04000000#32 := by decide +kernel

/-- R122's example, and S61. -/
theorem test_rdr : answerOf (exec (.rdr 47#8) { record 0x0080#16 0#16 .detect with endn := .swapped }) = some 0x00018000#32 ∧
    answerOf (exec (.rdr 0#8) State.reset) = some 0x04000000#32 := by decide +kernel

/-- R144's example (`T` is folded); S33 and S32: a full vector, a deleted byte, a dropped byte. -/
theorem test_pwb_folds_and_maps : leaves (step (presented State.reset 0x20000054#32)) (fun t => (t.tp[0], t.plen, t.resps)) =
    some (0x14#8, 1#7, [0x00010000#32]) := by decide +kernel
theorem test_pwb_full : leaves (exec (.pwb 0x61#8) { State.reset with plen := 64#7 }) (fun t => (t.plen, t.trunc)) = some (64#7, true) ∧
    leaves (exec (.pwb 0x21#8) { State.reset with plen := 64#7 }) (fun t => (t.plen, t.trunc)) = some (64#7, false) := by
  decide +kernel

/-- S36 and S36k: `Hello, World; 42` in both digit orders. -/
theorem test_map_password :
    ([0x48, 0x65, 0x6C, 0x6C, 0x6F, 0x2C, 0x20, 0x57, 0x6F, 0x72, 0x6C, 0x64, 0x3B, 0x20, 0x34, 0x32].map (BitVec.ofNat 8) |>
      fun p => mapPassword .ascending p = [0x23#8, 0x12#8, 0x26#8, 0x26#8, 0x18#8, 0x39#8, 0x11#8, 0x18#8, 0x13#8, 0x26#8,
        0x20#8, 0x27#8, 0x39#8, 0x06#8, 0x04#8] ∧ (mapPassword .keyboard p).drop 13 = [0x05#8, 0x03#8]) := by decide +kernel

/-- After S24: `RDT 2`; after S50: `RDT` is refused. -/
theorem test_rdt : answerOf (exec (.rdt 2#6) { State.reset with tp := State.reset.tp.set 2 0x1F#8, plen := 4#7 }) =
      some 0x0001001F#32 ∧
    answerOf (exec (.rdt 0#6) (faulty .illegalCommand)) = some 0x03000000#32 := by decide +kernel

/-- S40: the digest of `test` on the record Z47, its first and last bytes and flags. -/
theorem test_hash_s40 :
    leaves (exec .hash { record 0x0080#16 0#16 .detect with
        endn := .swapped
        tp := (((State.reset.tp.set 0 0x14#8).set 1 0x12#8).set 2 0x1F#8).set 3 0x14#8
        plen := 4#7 })
      (fun t => (t.digest.toList.take 4, t.digest[24], t.digest[31], t.dvalid, t.zbyte)) =
    some ([0xBA#8, 0xFD#8, 0x85#8, 0x4F#8], 0x02#8, 0xF7#8, true, false) := by decide +kernel

/-- S49: the password `o` gives a digest with zero bytes. -/
theorem test_hash_s49_zero_byte :
    leaves (exec .hash { record 0x0080#16 0#16 .detect with
        endn := .swapped, tp := State.reset.tp.set 0 0x18#8, plen := 1#7 })
      (fun t => (t.digest[0], t.digest[2], t.zbyte)) = some (0xC2#8, 0x00#8, true) := by decide +kernel

/-- S60, and R168: a digest byte. -/
theorem test_rdd : answerOf (exec (.rdd 0#5) State.reset) = some 0x04000000#32 ∧
    answerOf (exec (.rdd 31#5) done) = some 0x00010001#32 := by decide +kernel

/-- P2: `FIELDS` puts the low byte of a resolved word first (word 10 = 0x5744 under `NATIVE`). -/
theorem test_fields_low_byte_first :
    ({ ready with raw := ready.raw.set 10 0x5744#16 } : State).fields.take 2 = [0x44#8, 0x57#8] := by decide +kernel

/-- R190: the empty message and 64 zero bytes (first words), and the schedule and first round of `abc`. -/
theorem test_sha256_values :
    (sha256 []).toList.take 4 = [0xE3#8, 0xB0#8, 0xC4#8, 0x42#8] ∧
    (sha256 (List.replicate 64 0x00#8)).toList.take 4 = [0xF5#8, 0xA5#8, 0xFD#8, 0x42#8] := by decide +kernel
theorem test_sha256_abc_intermediates :
    (schedule (wordsOf (padMessage [0x61#8, 0x62#8, 0x63#8]))).drop 15 |>.take 4 |>
      (· = [0x00000018#32, 0x61626380#32, 0x000f0000#32, 0x7da86405#32]) := by decide +kernel
theorem test_sha256_abc_first_round :
    roundT1 hashInit 0x428a2f98#32 0x61626380#32 = 0x54da50e8#32 ∧ roundT2 hashInit = 0x08909ae5#32 := by decide +kernel

/-! ## The step -/

/-- R75: an illegal word faults once, then is refused; the first fault is kept (60_exceptions.md, after S50). -/
theorem test_illegal_word : answerOf (step (presented State.reset 0x04000000#32)) = some 0x03000000#32 ∧
    answerOf (step (presented (faulty .malformedRecord) 0x04000000#32)) = some 0x01000000#32 := by decide +kernel

/-- `withFetchWord`: the very next step runs that word, here ahead of another. -/
theorem test_fetch_word_runs_next :
    leaves (step ((presented State.reset 0x00000000#32).withFetchWord 32 0x02000002)) (fun t => (t.mode, t.inputs)) =
      some (.reverse, [.cmd 0x00000000#32]) := by decide +kernel

/-- R230: a pulse of `rst_n` clears the counters and answers nothing. -/
theorem test_hardware_reset :
    leaves (step { done with inputs := [.hwReset] }) (fun t => (t.wcnt, t.endn, t.dvalid, t.resps)) =
      some (0#9, .none, false, []) := by decide +kernel

/-- R235: tokens of exactly 4 hexadecimal digits count, also in a comment; `0x0080` and `80` do not. -/
theorem test_identity_words :
    identityWords ([0x30, 0x30, 0x38, 0x30, 0x20, 0x30, 0x78, 0x30, 0x30, 0x38, 0x30, 0x0A, 0x38, 0x30, 0x20, 0x46, 0x61, 0x63,
      0x65].map (BitVec.ofNat 8)) = [0x0080#16, 0xFACE#16] := by decide +kernel

/-- R79's spelling. -/
theorem test_spelling : spelling (.ldw 0x00AF#16) = "LDW 0x00AF" ∧ spelling (.setmode 2#2) = "SETMODE reverse" := by
  decide +kernel

/-! ## Witnesses for the statements' hypotheses -/

theorem witness_DecodeOfEncode : (Instr.rdd 31#5).wf = true := by decide
theorem witness_EncodeOfDecode : decode 0x3100001F#32 = some (.rdd 31#5) := by decide
theorem witness_LegalWordsExactly :
    ⟨"RDD", 0xFFFFFFE0#32, 0x31000000#32, false⟩ ∈ maskMatchRows ∧
    (⟨"RDD", 0xFFFFFFE0#32, 0x31000000#32, false⟩ : MaskMatch).takes 0x3100001F#32 = true := by decide
theorem witness_StepRunsDecodedCommand :
    (presented State.reset 0x10000080#32).inputs = .cmd 0x10000080#32 :: [] ∧ decode 0x10000080#32 = some (.ldw 0x0080#16) := by
  decide
theorem witness_IllegalWordFaultsOrIsRefused :
    (presented State.reset 0x04000000#32).inputs = .cmd 0x04000000#32 :: [] ∧ decode 0x04000000#32 = none ∧
    (presented State.reset 0x04000000#32).err = none ∧ (presented (faulty .sequenceError) 0x04000000#32).err ≠ none := by
  decide
theorem witness_IllegalWordFaultsOrIsRefused_listed :
    (0x04000000#32).extractLsb' 24 8 ∉
      [0x00#8, 0x01#8, 0x02#8, 0x03#8, 0x10#8, 0x11#8, 0x12#8, 0x13#8, 0x20#8, 0x21#8, 0x30#8, 0x31#8] ∧
    (0x00010000#32).extractLsb' 16 8 ≠ 0x00#8 ∧
    argMask? ((0x31000020#32).extractLsb' 24 8) = some 0x001F#16 ∧
    (0x31000020#32).extractLsb' 0 16 &&& ~~~0x001F#16 ≠ 0#16 := by decide
theorem witness_IdleBlockHoldsItsState : State.reset.inputs = [] := rfl
theorem witness_HardwareResetState : ({ done with inputs := [.hwReset] } : State).inputs = .hwReset :: [] := rfl
theorem witness_OneResponsePerCommand : (presented State.reset 0x30000000#32).inputs = .cmd 0x30000000#32 :: [] := rfl
theorem witness_NopRule : (0x00000001#32).extractLsb' 24 8 = 0x00#8 ∧ 0x00000001#32 ≠ 0x00000000#32 := by decide
theorem witness_RstRule :
    (presented (faulty .sequenceError) 0x01000000#32).err ≠ none ∧
    leaves (step (presented (faulty .sequenceError) 0x01000000#32)) (fun t => t.err) = some none ∧
    leaves (step (presented (faulty .sequenceError) 0x30000000#32)) (fun t => t.err) = some (some .sequenceError) := by
  decide +kernel
/-- The words the rules call illegal, and a state that takes the fault. -/
theorem witness_RaisesIllegalCommand :
    State.reset.err = none ∧ (presented State.reset 0x02000003#32).inputs = .cmd 0x02000003#32 :: [] ∧
    0x03000003#32 ∉ [0x03000000#32, 0x03000001#32, 0x03000002#32] ∧
    (0x20000100#32).extractLsb' 8 8 ≠ 0#8 ∧ (0x21000040#32).extractLsb' 6 10 ≠ 0#10 ∧
    (0x31000020#32).extractLsb' 5 11 ≠ 0#11 := by decide
theorem witness_SetmodeRule :
    (0x02000003#32).extractLsb' 24 8 = 0x02#8 ∧ 0x02000003#32 ∉ [0x02000000#32, 0x02000001#32, 0x02000002#32] ∧
    Mode.reverse.bits = 2#2 ∧ State.reset.err = none ∧ State.reset.endn = .none ∧ ready.err = none ∧ ready.endn ≠ .none := by
  decide
/-- The two runs of its last clause: `RDS plen` on states that differ in `MODE`. -/
theorem witness_SetmodeRule_modeUnread :
    decode 0x03000002#32 ≠ some .resolve ∧ decode 0x03000002#32 ≠ some (.rds 0#2) ∧
    leaves (step (presented State.reset 0x03000002#32)) (fun t => (t.mode, t.resps)) = some (.detect, [0x00010000#32]) ∧
    leaves (step { presented State.reset 0x03000002#32 with mode := .reverse }) (fun t => (t.mode, t.resps)) =
      some (.reverse, [0x00010000#32]) := by decide +kernel
theorem witness_RdsRule : (0x03000003#32).extractLsb' 24 8 = 0x03#8 := by decide
theorem witness_LdwRule :
    ready.err = none ∧ ready.endn ≠ .none ∧ State.reset.err = none ∧ State.reset.endn = .none ∧
    ({ State.reset with wcnt := 255#9 } : State).wcnt.toNat < 256 ∧
    ({ State.reset with wcnt := 256#9 } : State).wcnt.toNat = 256 ∧
    ({ State.reset with wcnt := 257#9 } : State).wcnt.toNat = 257 := by decide
theorem witness_LoadedRecordIsTheWordsOffered :
    State.reset.err = none ∧ State.reset.endn = .none ∧ State.reset.wcnt = 0#9 := by decide
theorem witness_ResolveCountsFirst :
    ({ State.reset with wcnt := 255#9 } : State).err = none ∧ ({ State.reset with wcnt := 255#9 } : State).endn = .none ∧
    ({ State.reset with wcnt := 255#9 } : State).wcnt ≠ 256#9 ∧ ({ State.reset with wcnt := 257#9 } : State).wcnt ≠ 256#9 := by
  decide
theorem witness_ResolveNative :
    (record 0#16 0#16 .native).err = none ∧ (record 0#16 0#16 .native).endn = .none ∧
    (record 0#16 0#16 .native).wcnt = 256#9 ∧ (record 0#16 0#16 .native).mode = .native := by decide
theorem witness_ResolveReverse :
    (record 0#16 0#16 .reverse).err = none ∧ (record 0#16 0#16 .reverse).endn = .none ∧
    (record 0#16 0#16 .reverse).wcnt = 256#9 ∧ (record 0#16 0#16 .reverse).mode = .reverse := by decide

/-- The hypotheses every clause of `ResolveDetect` shares, for any two probe words. -/
theorem witness_ResolveDetect (w47 w255 : IdWord) :
    (record w47 w255 .detect).err = none ∧ (record w47 w255 .detect).endn = .none ∧
    (record w47 w255 .detect).wcnt = 256#9 ∧ (record w47 w255 .detect).mode = .detect ∧
    (record w47 w255 .detect).raw[47] = w47 ∧ (record w47 w255 .detect).raw[255] = w255 := by
  refine ⟨rfl, rfl, rfl, rfl, ?_, ?_⟩ <;> simp [record]
/-- One pair of probe words for each of its five clauses (S16c, S16a, S16f, S16e, S6c). -/
theorem witness_ResolveDetect_clauses :
    ((0x807F#16).extractLsb' 8 8 = 0x80#8 ∧ (0x807F#16).extractLsb' 0 8 ≠ 0x80#8) ∧
    ((0x7F80#16).extractLsb' 8 8 ≠ 0x80#8 ∧ (0x7F80#16).extractLsb' 0 8 = 0x80#8) ∧
    ((0x8080#16).extractLsb' 8 8 = 0x80#8 ∧ (0x8080#16).extractLsb' 0 8 = 0x80#8) ∧
    ((0xA4A5#16).extractLsb' 0 8 = 0xA5#8 ∧ (0xA4A5#16).extractLsb' 8 8 ≠ 0xA5#8) ∧
    ((0xA512#16).extractLsb' 0 8 ≠ 0xA5#8 ∧ (0xA512#16).extractLsb' 8 8 = 0xA5#8) ∧
    ((0xA5A5#16).extractLsb' 0 8 = 0xA5#8 ∧ (0xA5A5#16).extractLsb' 8 8 = 0xA5#8) := by decide
theorem witness_SwappedCopyResolvesAlike :
    (record 0x8000#16 0#16 .detect).err = none ∧ (record 0x8000#16 0#16 .detect).endn = .none ∧
    (record 0x8000#16 0#16 .detect).wcnt = 256#9 ∧ (record 0x8000#16 0#16 .detect).mode = .detect ∧
    leaves (exec .resolve (record 0x8000#16 0#16 .detect)) (fun t => t.err) = some none ∧
    leaves (exec .resolve (record 0x8080#16 0#16 .detect)) (fun t => t.err) = some (some .unknownEndianness) := by
  decide +kernel
theorem witness_ResolvedOncePerRecord_completed :
    leaves (exec .resolve (record 0x8000#16 0#16 .detect)) (fun t => (t.endn, t.resps)) =
      some (.native, State.reset.resps ++ [0x00010000#32]) ∧
    respOk 0x00010000#32 = true := by decide +kernel
theorem witness_ResolvedOncePerRecord :
    ready.err = none ∧ ready.endn = .native ∧ (2#2 : BitVec 2) ≠ 3#2 ∧
    (presented ready 0x11000000#32).inputs = .cmd 0x11000000#32 :: [] ∧ decode 0x11000000#32 ≠ some .rst ∧
    leaves (step (presented ready 0x11000000#32)) (fun t => t.endn) = some .native ∧
    State.reset.err = none ∧ leaves (exec .resolve State.reset) (fun t => t.err) = some (some .malformedRecord) ∧
    decode 0x02000001#32 ≠ some .rst := by
  decide +kernel
theorem witness_RdwRule :
    (255#8).toNat < min (record 0#16 0#16 .detect).wcnt.toNat 256 ∧ ¬ (0#8).toNat < min State.reset.wcnt.toNat 256 ∧
    State.reset.err = none ∧ (faulty .malformedRecord).err ≠ none ∧
    ¬ (0#8).toNat < min (faulty .malformedRecord).wcnt.toNat 256 := by decide
theorem witness_RdrRule :
    ready.err = none ∧ ready.endn = .native ∧ ({ ready with endn := .swapped } : State).endn = .swapped ∧
    State.reset.err = none ∧ State.reset.endn = .none ∧ (faulty .sequenceError).err ≠ none := by decide
theorem witness_AlphabetRule : 0x80 ≤ (0xFF#8).toNat := by decide
theorem witness_TranslationTable : xlat .keyboard 0x20#8 = some 57#8 ∧ xlat .ascending 0x74#8 = some 20#8 := by decide +kernel
theorem witness_DigitOrderRule : ¬ (0x30 ≤ (0x3B#8).toNat ∧ (0x3B#8).toNat ≤ 0x39) := by decide
theorem witness_PwbRule :
    done.err = none ∧ done.dvalid = true ∧ State.reset.err = none ∧ State.reset.dvalid = false ∧
    xlat State.reset.cfg.digitOrder (fold 0x54#8) = some 0x14#8 ∧
    ({ State.reset with plen := 63#7 } : State).plen.toNat < 64 ∧ ({ State.reset with plen := 64#7 } : State).plen.toNat = 64 ∧
    xlat State.reset.cfg.digitOrder (fold 0x21#8) = none := by decide +kernel
theorem witness_PasswordRunTranslates :
    State.reset.err = none ∧ State.reset.dvalid = false ∧ State.reset.plen = 0#7 ∧ State.reset.trunc = false ∧
    State.reset.tp = Vector.replicate 64 0x00#8 := ⟨rfl, rfl, rfl, rfl, rfl⟩
theorem witness_RdtRule :
    State.reset.err = none ∧ (faulty .sequenceError).err ≠ none ∧ State.reset.plen.toNat ≤ (0#6).toNat ∧
    Reachable State.reset.toBlock := by
  refine ⟨rfl, by decide, by decide, ?_⟩
  constructor <;> simp [State.reset, Mode.bits, errCode]
theorem witness_HashRule : readyToHash ready.toBlock ∧ State.reset.err = none ∧ ¬ readyToHash State.reset.toBlock := by
  refine ⟨⟨rfl, .inl rfl, rfl⟩, rfl, ?_⟩
  rintro ⟨-, h | h, -⟩ <;> simp [State.reset] at h
theorem witness_FieldsSerialisation :
    (10 : Fin 256).val = (if (0 : Fin 30).val < 10 then 10 + (0 : Fin 30).val else 17 + (0 : Fin 30).val) ∧
    (46 : Fin 256).val = (if (29 : Fin 30).val < 10 then 10 + (29 : Fin 30).val else 17 + (29 : Fin 30).val) := by decide
theorem witness_ZeroByteFlag : readyToHash ready.toBlock := ⟨rfl, .inl rfl, rfl⟩
/-- Two blocks that differ outside the identity fields (word 0). -/
theorem witness_DigestDependsOnInputsOnly :
    readyToHash ready.toBlock ∧ readyToHash ({ ready with raw := ready.raw.set 0 0x5555#16 } : State).toBlock ∧
    ∀ i : Fin 256, (10 ≤ i.val ∧ i.val ≤ 19 ∨ 27 ≤ i.val ∧ i.val ≤ 46) →
      ready.res i = ({ ready with raw := ready.raw.set 0 0x5555#16 } : State).res i := by
  refine ⟨⟨rfl, .inl rfl, rfl⟩, ⟨rfl, .inl rfl, rfl⟩, ?_⟩
  intro i hi
  have h0 : ¬ (0 = i.val) := by omega
  simp [Block.res, resIn, ready, h0]
theorem witness_HashCallsAreTwoCompressions :
    (List.replicate 64 0x00#8).length = 64 ∧ (List.replicate 72 0x00#8).length = 72 := ⟨rfl, rfl⟩
theorem witness_ScheduleRecurrence : (List.replicate 16 0#32).length = 16 := rfl
theorem witness_RddRule :
    done.err = none ∧ done.dvalid = true ∧ State.reset.err = none ∧ State.reset.dvalid = false ∧
    (faulty .sequenceError).err ≠ none := by decide

/-- The invariants hold of a resolved, unhashed record. -/
theorem ready_reachable : Reachable ready.toBlock := by
  constructor <;> simp [ready, record, State.reset, Mode.bits, errCode]

/-- `HASH` presented to it goes on. -/
theorem ready_hash_step :
    step (presented ready 0x30000000#32) =
      .next ({ presented ready 0x30000000#32 with inputs := [] }.answered
        (ready.toBlock.storeDigest ready.toBlock.digestOf) true 0#16) := by
  have hd : decode 0x30000000#32 = some .hash := by decide
  have ha : Admitted .hash ready.toBlock := .inl ⟨rfl, rfl⟩
  rw [step_command rfl, command_of_decode hd]
  exact execHash_run (s := { presented ready 0x30000000#32 with inputs := [] }) ha

theorem witness_ReachableKeptByEveryStep : ∃ s t : State, Reachable s.toBlock ∧ step s = .next t ∧ t.dvalid = true :=
  ⟨presented ready 0x30000000#32, _, ready_reachable, ready_hash_step, rfl⟩
theorem witness_ValidDigestStaysCurrent :
    ∃ s t : State, Reachable s.toBlock ∧
      (s.dvalid = true → s.digest = s.toBlock.digestOf ∧ (s.zbyte = true ↔ 0x00#8 ∈ s.digest.toList)) ∧
      step s = .next t ∧ t.dvalid = true :=
  ⟨presented ready 0x30000000#32, _, ready_reachable, (fun h => nomatch h), ready_hash_step, rfl⟩
/-- Two blocks out of reset that differ in a word not loaded and in the invalid digest. -/
theorem witness_UnloadedStorageUnobservable :
    ∃ s u : State, Indistinguishable s.toBlock u.toBlock ∧ Reachable s.toBlock ∧ s.cfg = u.cfg ∧ s.inputs = u.inputs ∧
      s.resps = u.resps ∧ s.raw ≠ u.raw ∧ s.digest ≠ u.digest := by
  refine ⟨State.reset, { State.reset with raw := Vector.replicate 256 1#16, digest := Vector.replicate 32 1#8 },
    ?_, ?_, rfl, rfl, rfl, ?_, ?_⟩
  · constructor <;> simp [State.reset]
  · constructor <;> simp [State.reset, Mode.bits, errCode]
  · decide +kernel
  · decide +kernel
theorem witness_FaultStateRefusesTheRest :
    (presented (faulty .sequenceError) 0x01000000#32).err ≠ none ∧
    (presented (faulty .sequenceError) 0x30000000#32).err = some .sequenceError ∧
    (presented (faulty .sequenceError) 0x30000000#32).inputs = .cmd 0x30000000#32 :: [] ∧
    decode 0x30000000#32 ≠ some .rst ∧ decode 0x03000000#32 = some (.rds 0#2) := by decide
theorem witness_OnlyResetLeavesTheFaultState :
    (presented (faulty .sequenceError) 0x01000000#32).err ≠ none ∧
    leaves (step (presented (faulty .sequenceError) 0x01000000#32)) (fun t => t.err) = some none := by decide +kernel
theorem witness_FaultsArePrecise :
    State.reset.err = none ∧ (presented State.reset 0x11000000#32).inputs = .cmd 0x11000000#32 :: [] ∧
    leaves (step (presented State.reset 0x11000000#32)) (fun t => t.err) = some (some .malformedRecord) := by decide +kernel
/-- Each of the four faults is raised by some word. -/
theorem witness_FaultCauses :
    State.reset.err = none ∧
    leaves (step (presented State.reset 0x04000000#32)) (fun t => t.err) = some (some .illegalCommand) ∧
    leaves (step (presented State.reset 0x31000000#32)) (fun t => t.err) = some (some .sequenceError) ∧
    leaves (step (presented State.reset 0x11000000#32)) (fun t => t.err) = some (some .malformedRecord) ∧
    leaves (step (presented (record 0#16 0#16 .detect) 0x11000000#32)) (fun t => t.err) = some (some .unknownEndianness) := by
  decide +kernel
/-- A register changes: `SETMODE reverse` out of reset. -/
theorem witness_EachRegisterHasItsWriters :
    (presented State.reset 0x02000002#32).inputs = .cmd 0x02000002#32 :: [] ∧
    leaves (step (presented State.reset 0x02000002#32)) (fun t => decide (t.mode ≠ State.reset.mode)) = some true := by
  decide +kernel
theorem witness_ReadsAreIdempotent :
    leaves (exec (.rdd 31#5) done) (fun t => t.resps) = some (done.resps ++ [0x00010001#32]) ∧
    respOk 0x00010001#32 = true := by decide +kernel
/-- Two states that differ in `DIGEST` alone, and a word that is no `RDD`: `RDS flags` answers both alike. -/
theorem witness_NoPartialOutput_digestUnread :
    decode 0x03000000#32 = some (.rds 0#2) ∧ done.digest ≠ Vector.replicate 32 0x02#8 ∧
    leaves (step (presented done 0x03000000#32)) (fun t => t.resps) = some [0x00010014#32] ∧
    leaves (step { presented done 0x03000000#32 with digest := Vector.replicate 32 0x02#8 }) (fun t => t.resps) =
      some [0x00010014#32] := by decide +kernel
/-- `HASH` sets `DVALID`. -/
theorem witness_NoPartialOutput_hash : ∃ t : State, (presented ready 0x30000000#32).dvalid = false ∧
    step (presented ready 0x30000000#32) = .next t ∧ t.dvalid = true := ⟨_, rfl, ready_hash_step, rfl⟩
theorem witness_NoPartialOutput :
    (presented done 0x3100001F#32).inputs = .cmd 0x3100001F#32 :: [] ∧ decode 0x3100001F#32 = some (.rdd 31#5) := by decide
theorem witness_PhasesPartitionReachableStates : Reachable ready.toBlock := ready_reachable

end Sys2Proof.Tests
end

section
/-!
The family of 30_encoding.md: which words are legal (R74, in both of its forms), and what an illegal word does (R75).
-/

namespace Sys2Proof

/-! ## A word and its three fields (R72) -/

theorem fields_append (c : CmdWord) : opOf c ++ rsvOf c ++ argOf c = c := by
  unfold opOf rsvOf argOf
  rw [BitVec.extractLsb'_append_extractLsb'_eq_extractLsb' (by rfl),
    BitVec.extractLsb'_append_extractLsb'_eq_extractLsb' (by rfl)]
  exact BitVec.extractLsb'_eq_self

/-- Two words are equal when their fields are. -/
theorem eq_iff_fields_eq (c d : CmdWord) : c = d ↔ opOf c = opOf d ∧ rsvOf c = rsvOf d ∧ argOf c = argOf d := by
  constructor
  · rintro rfl
    exact ⟨rfl, rfl, rfl⟩
  · rintro ⟨hop, hrsv, harg⟩
    rw [← fields_append c, ← fields_append d, hop, hrsv, harg]

theorem opOf_and (c d : CmdWord) : opOf (c &&& d) = opOf c &&& opOf d := BitVec.extractLsb'_and

theorem rsvOf_and (c d : CmdWord) : rsvOf (c &&& d) = rsvOf c &&& rsvOf d := BitVec.extractLsb'_and

theorem argOf_and (c d : CmdWord) : argOf (c &&& d) = argOf c &&& argOf d := BitVec.extractLsb'_and

theorem argWithin_iff (mask arg : BitVec 16) : argWithin mask arg = true ↔ arg &&& ~~~mask = 0#16 := by
  simp [argWithin]

/-! ## The first form of R74: the decoder accepts exactly the legal words -/

/-- `argMask?` and the table say the same: no opcode has two rows (R73). -/
theorem argMask?_eq_some_iff (op : BitVec 8) (mask : BitVec 16) : argMask? op = some mask ↔ (op, mask) ∈ argMasks := by
  have answered : ∀ row ∈ argMasks, argMask? row.1 = some row.2 := by
    simp [argMask?, argMasks, List.lookup_cons]
  exact ⟨argMask?_mem, answered (op, mask)⟩

/-- An opcode of the table names a command of that opcode, whatever its `arg` (R73). -/
theorem commandOf_of_argMask? {op : BitVec 8} {mask : BitVec 16} (h : argMask? op = some mask) (arg : BitVec 16) :
    ∃ i, commandOf op arg = some i ∧ opcode i = op := by
  have named : ∀ row ∈ argMasks, (commandOf row.1 arg).map opcode = some row.1 := by
    simp [argMasks, commandOf, opcode]
  exact Option.map_eq_some_iff.1 (named (op, mask) (argMask?_mem h))

/-- A legal word decodes to a command of its opcode. -/
theorem decode_of_legal {c : CmdWord} (h : legal c = true) : ∃ i, decode c = some i ∧ opcode i = opOf c := by
  obtain ⟨mask, hmask, -⟩ := (legal_iff c).1 h
  simpa [decode, h] using commandOf_of_argMask? hmask (argOf c)

theorem decode_isSome_iff (c : CmdWord) : (decode c).isSome = true ↔ legal c = true := by
  constructor
  · intro h
    by_contra hl
    simp [decode, hl] at h
  · intro h
    obtain ⟨i, hi, -⟩ := decode_of_legal h
    rw [hi, Option.isSome_some]

theorem decode_eq_none_iff (c : CmdWord) : decode c = none ↔ ¬ legal c = true := by
  rw [← decode_isSome_iff, Option.not_isSome_iff_eq_none]

/-- The command a word decodes to has the word's opcode (R73). -/
theorem opcode_of_decode {c : CmdWord} {i : Instr} (h : decode c = some i) : opcode i = opOf c := by
  obtain ⟨j, hj, hop⟩ := decode_of_legal ((decode_isSome_iff c).1 (by rw [h, Option.isSome_some]))
  obtain rfl : i = j := Option.some.inj (h.symm.trans hj)
  exact hop

/-! ## The second form of R74: the rows of masks and matches -/

/-- The opcode a row matches. -/
def MaskMatch.op (r : MaskMatch) : BitVec 8 := opOf r.value

/-- The `arg` bits a row leaves open. -/
def MaskMatch.argMask (r : MaskMatch) : BitVec 16 := ~~~argOf r.mask

/-- How a row spells R74's four items: every bit of `op` and `rsv` is compared, `rsv` and the closed bits of `arg` with 0, the
open ones are the opcode's `ARGMASK`, and the extra condition stands in the rows of `SETMODE` and `RDS`. -/
theorem maskMatchRow_spells : ∀ r ∈ maskMatchRows,
    opOf r.mask = BitVec.allOnes 8 ∧ rsvOf r.mask = BitVec.allOnes 8 ∧ rsvOf r.value = 0x00#8 ∧ argOf r.value = 0#16 ∧
      argMask? r.op = some r.argMask ∧ (r.notThree = true ↔ r.op = 0x02#8 ∨ r.op = 0x03#8) := by
  decide

/-- The masked comparison of a row, field by field. -/
theorem and_mask_eq_value_iff {r : MaskMatch} (hr : r ∈ maskMatchRows) (c : CmdWord) :
    c &&& r.mask = r.value ↔ opOf c = r.op ∧ rsvOf c = 0x00#8 ∧ argWithin r.argMask (argOf c) = true := by
  obtain ⟨hop, hrsv, hrsv0, harg0, -, -⟩ := maskMatchRow_spells r hr
  rw [eq_iff_fields_eq, opOf_and, rsvOf_and, argOf_and, hop, hrsv, hrsv0, harg0, BitVec.and_allOnes, BitVec.and_allOnes,
    argWithin_iff]
  simp [MaskMatch.op, MaskMatch.argMask]

/-- The two forms of R74 agree: a row takes the legal words of its opcode. -/
theorem takes_iff {r : MaskMatch} (hr : r ∈ maskMatchRows) (c : CmdWord) :
    r.takes c = true ↔ legal c = true ∧ opOf c = r.op := by
  obtain ⟨-, -, -, -, hmask, hthree⟩ := maskMatchRow_spells r hr
  have htakes : r.takes c = true ↔ c &&& r.mask = r.value ∧ (r.notThree = true → c.extractLsb' 0 2 ≠ 3#2) := by
    simp [MaskMatch.takes, imp_iff_not_or]
  rw [htakes, and_mask_eq_value_iff hr, hthree, legal_iff]
  constructor
  · rintro ⟨⟨hop, hrsv, hwithin⟩, hlow⟩
    rw [hop]
    exact ⟨⟨r.argMask, hmask, hrsv, hwithin, hlow⟩, rfl⟩
  · rintro ⟨⟨mask, hm, hrsv, hwithin, hlow⟩, hop⟩
    rw [hop] at hm hlow
    obtain rfl : r.argMask = mask := Option.some.inj (hmask.symm.trans hm)
    exact ⟨⟨hop, hrsv, hwithin⟩, hlow⟩

/-- A row and a command have the same mnemonic exactly when they have the same opcode (R73). -/
theorem mnemonic_eq_iff_opcode_eq (i : Instr) : ∀ r ∈ maskMatchRows, mnemonic i = r.mnemonic ↔ opcode i = r.op := by
  cases i <;> simp only [mnemonic, opcode] <;> decide

/-- The words a row takes are the words that decode to the row's command. -/
theorem takes_iff_decode {r : MaskMatch} (hr : r ∈ maskMatchRows) (c : CmdWord) :
    r.takes c = true ↔ ∃ i, decode c = some i ∧ mnemonic i = r.mnemonic := by
  rw [takes_iff hr, ← decode_isSome_iff]
  constructor
  · rintro ⟨hsome, hop⟩
    obtain ⟨i, hi⟩ := Option.isSome_iff_exists.1 hsome
    exact ⟨i, hi, (mnemonic_eq_iff_opcode_eq i r hr).2 ((opcode_of_decode hi).trans hop)⟩
  · rintro ⟨i, hi, hname⟩
    exact ⟨by rw [hi, Option.isSome_some], (opcode_of_decode hi).symm.trans ((mnemonic_eq_iff_opcode_eq i r hr).1 hname)⟩

/-- No two rows match the same opcode. -/
theorem maskMatchRow_eq_of_op_eq {r q : MaskMatch} (hr : r ∈ maskMatchRows) (hq : q ∈ maskMatchRows) (h : r.op = q.op) :
    r = q := by
  have distinct : (maskMatchRows.map MaskMatch.op).Nodup := by decide
  exact List.inj_on_of_nodup_map distinct hr hq h

/-- Settles O4: the first form of R74 is `legal`, read off the table; the second is a row's four fields, each compared with
the table's row of the same opcode; and a word has one opcode, which one row matches. -/
theorem legalWordsExactly : Obligations.LegalWordsExactly := by
  refine ⟨fun c => ?_, fun c r hr => takes_iff_decode hr c, fun c r q hr hq htr htq => ?_⟩
  · rw [decode_isSome_iff, legal_iff]
    constructor
    · rintro ⟨mask, hmask, hrsv, hwithin, hlow⟩
      refine ⟨opOf c, mask, ?_, rfl, hrsv, (argWithin_iff _ _).1 hwithin, hlow⟩
      exact (List.Perm.mem_iff (by decide)).1 ((argMask?_eq_some_iff _ _).1 hmask)
    · rintro ⟨_, mask, hrow, rfl, hrsv, hwithin, hlow⟩
      have hmask := (argMask?_eq_some_iff _ _).2 ((List.Perm.mem_iff (by decide)).1 hrow)
      exact ⟨mask, hmask, hrsv, (argWithin_iff _ _).2 hwithin, hlow⟩
  · have hop := ((takes_iff hr c).1 htr).2
    have hop' := ((takes_iff hq c).1 htq).2
    exact maskMatchRow_eq_of_op_eq hr hq (hop.symm.trans hop')

end Sys2Proof

namespace Sys2Proof.Machine

open Sys2Proof.Safety

/-! ## What an illegal word does (R75, R90 stage 1) -/

theorem illegalWord_eq_faultTaken {s : State} (h : s.err = none) : illegalWord s = .next (faultTaken s .illegalCommand) := by
  rw [illegalWord_noFault h, raise_eq]
  rfl

theorem illegalWord_eq_refusalGiven {s : State} (h : s.err ≠ none) : illegalWord s = .next (refusalGiven s) := by
  rw [illegalWord_inFault h, refuse_eq]
  rfl

theorem step_illegal {s : State} {c : CmdWord} {rest : List HostInput} (hin : s.inputs = .cmd c :: rest)
    (hd : decode c = none) : step s = illegalWord { s with inputs := rest } := by
  rw [step_command hin, command_of_illegal hd]

/-- Settles O6: a word that does not decode goes to `illegalWord`, which faults or refuses; and each word R75 lists breaks one
of the items of `legal_iff`. -/
theorem illegalWordFaultsOrIsRefused : Obligations.IllegalWordFaultsOrIsRefused := by
  refine ⟨fun s c rest hin hd => ?_, fun c hlisted => ?_⟩
  · rw [step_illegal hin hd]
    exact ⟨fun h => illegalWord_eq_faultTaken h, fun h => illegalWord_eq_refusalGiven h⟩
  · rw [decode_eq_none_iff, legal_iff]
    rintro ⟨mask, hmask, hrsv, hwithin, hlow⟩
    rcases hlisted with hop | hrsv' | ⟨mask', hmask', harg⟩ | rfl | rfl
    · exact hop (List.mem_map_of_mem (f := Prod.fst) (argMask?_mem hmask))
    · exact hrsv' hrsv
    · obtain rfl : mask = mask' := Option.some.inj (hmask.symm.trans hmask')
      exact harg ((argWithin_iff mask _).1 hwithin)
    · exact hlow (by decide) (by decide)
    · exact hlow (by decide) (by decide)

end Sys2Proof.Machine
end

section
/-!
The family of 40_control.md: the one response of every command (R91), the commands of the sequencer (R92 to R95), and what
the fault state permits (R97, R210).
-/

namespace Sys2Proof

/-! ## A legal word is the encoding of its command (R72, R78) -/

theorem commandOf_of_decode {c : CmdWord} {i : Instr} (h : decode c = some i) :
    legal c = true ∧ commandOf (opOf c) (argOf c) = some i := by
  have hl : legal c = true := (decode_isSome_iff c).1 (by rw [h, Option.isSome_some])
  exact ⟨hl, by simpa [decode, hl] using h⟩

/-- Within its opcode's `ARGMASK`, an `arg` is the operand field of the command it names (R73, R74 item 3). -/
theorem argField_of_commandOf {op : BitVec 8} {mask arg : BitVec 16} {i : Instr} (hmask : argMask? op = some mask)
    (hwithin : argWithin mask arg = true) (h : commandOf op arg = some i) : argField i = arg := by
  have low : ∀ (n : Nat) {m : BitVec 16}, (∀ j, j < 16 → n ≤ j → m.getLsbD j = false) → argWithin m arg = true →
      some ((arg.extractLsb' 0 n).setWidth 16) = some arg := fun _ _ hm hw => congrArg some (setWidth_of_argWithin hw hm)
  have noArg : argWithin 0x0000#16 arg = true → some 0#16 = some arg := fun hw => by
    simpa using setWidth_of_argWithin (n := 0) hw (by decide)
  have perRow : ∀ row ∈ argMasks, argWithin row.2 arg = true → (commandOf row.1 arg).map argField = some arg := by
    simp only [argMasks, List.cons_append, List.nil_append, List.forall_mem_cons]
    exact ⟨noArg, noArg, low 2 (by decide), low 2 (by decide), fun _ => rfl, noArg,
      low 8 (by decide), low 8 (by decide), low 8 (by decide), low 6 (by decide), noArg, low 5 (by decide), by simp⟩
  simpa [h] using perRow (op, mask) (argMask?_mem hmask) hwithin

/-- No two words decode to one command: the command's encoding is the word (R78). -/
theorem encode_of_decode {c : CmdWord} {i : Instr} (h : decode c = some i) : encode i = c := by
  obtain ⟨hl, hcmd⟩ := commandOf_of_decode h
  obtain ⟨mask, hmask, hrsv, hwithin, -⟩ := (legal_iff c).1 hl
  rw [encode, opcode_of_decode h, argField_of_commandOf hmask hwithin hcmd, enc_fields c hrsv]

/-- The decoder hands on well-formed commands only (R74 item 4). -/
theorem wf_of_decode {c : CmdWord} {i : Instr} (h : decode c = some i) : i.wf = true := by
  obtain ⟨hl, hcmd⟩ := commandOf_of_decode h
  obtain ⟨-, -, -, -, hlow⟩ := (legal_iff c).1 hl
  have hop := opcode_of_decode h
  rw [← hop] at hcmd hlow
  cases i with
  | setmode mode =>
    obtain rfl : (argOf c).extractLsb' 0 2 = mode := by simpa [commandOf, opcode] using hcmd
    simpa [Instr.wf, argOf_low] using hlow (.inl rfl)
  | rds sel =>
    obtain rfl : (argOf c).extractLsb' 0 2 = sel := by simpa [commandOf, opcode] using hcmd
    simpa [Instr.wf, argOf_low] using hlow (.inr rfl)
  | nop | rst | ldw _ | resolve | rdw _ | rdr _ | pwb _ | rdt _ | hash | rdd _ => rfl

theorem decode_eq_rst_iff (c : CmdWord) : decode c = some .rst ↔ c = 0x01000000#32 := by
  constructor
  · exact fun h => (encode_of_decode h).symm
  · rintro rfl
    decide

theorem eq_nop_of_opcode {i : Instr} (h : opcode i = 0x00#8) : i = .nop := by
  cases i with
  | nop => rfl
  | rst | setmode _ | rds _ | ldw _ | resolve | rdw _ | rdr _ | pwb _ | rdt _ | hash | rdd _ => simp [opcode] at h

theorem eq_setmode_of_opcode {i : Instr} (h : opcode i = 0x02#8) : ∃ mode, i = .setmode mode := by
  cases i with
  | setmode mode => exact ⟨mode, rfl⟩
  | nop | rst | rds _ | ldw _ | resolve | rdw _ | rdr _ | pwb _ | rdt _ | hash | rdd _ => simp [opcode] at h

theorem eq_rds_of_opcode {i : Instr} (h : opcode i = 0x03#8) : ∃ sel, i = .rds sel := by
  cases i with
  | rds sel => exact ⟨sel, rfl⟩
  | nop | rst | setmode _ | ldw _ | resolve | rdw _ | rdr _ | pwb _ | rdt _ | hash | rdd _ => simp [opcode] at h

/-- A word is illegal when it encodes no well-formed command of its own opcode (R74). -/
theorem decode_eq_none_of_opcode {c : CmdWord} (h : ∀ i : Instr, opcode i = opOf c → i.wf = true → encode i ≠ c) :
    decode c = none := by
  rw [Option.eq_none_iff_forall_ne_some]
  exact fun i hi => h i (opcode_of_decode hi) (wf_of_decode hi) (encode_of_decode hi)

/-- The two-bit values an operand of `SETMODE` or `RDS` may take (R74 item 4). -/
theorem twoBits_ne_three : ∀ v : BitVec 2, v ≠ 3#2 → v = 0#2 ∨ v = 1#2 ∨ v = 2#2 := by decide

/-- Every word of `NOP`'s opcode but `NOP` is illegal (R92). -/
theorem decode_nop_opcode {c : CmdWord} (hop : opOf c = 0x00#8) (hc : c ≠ 0x00000000#32) : decode c = none := by
  refine decode_eq_none_of_opcode fun i hi _ henc => hc ?_
  obtain rfl := eq_nop_of_opcode (hi.trans hop)
  exact henc.symm

/-- Every word of `SETMODE`'s opcode but its three encodings is illegal (R94). -/
theorem decode_setmode_opcode {c : CmdWord} (hop : opOf c = 0x02#8)
    (hc : c ∉ [0x02000000#32, 0x02000001#32, 0x02000002#32]) : decode c = none := by
  refine decode_eq_none_of_opcode fun i hi hwf henc => hc ?_
  obtain ⟨mode, rfl⟩ := eq_setmode_of_opcode (hi.trans hop)
  rw [← henc]
  rcases twoBits_ne_three mode (by simpa [Instr.wf] using hwf) with rfl | rfl | rfl <;> decide

/-- Every word of `RDS`'s opcode but its three encodings is illegal (R95). -/
theorem decode_rds_opcode {c : CmdWord} (hop : opOf c = 0x03#8)
    (hc : c ∉ [0x03000000#32, 0x03000001#32, 0x03000002#32]) : decode c = none := by
  refine decode_eq_none_of_opcode fun i hi hwf henc => hc ?_
  obtain ⟨sel, rfl⟩ := eq_rds_of_opcode (hi.trans hop)
  rw [← henc]
  rcases twoBits_ne_three sel (by simpa [Instr.wf] using hwf) with rfl | rfl | rfl <;> decide

end Sys2Proof

namespace Sys2Proof.Machine

open Sys2Proof.Safety

theorem raisesIllegalCommand_of_decode {c : CmdWord} (h : decode c = none) : RaisesIllegalCommand c := by
  intro s rest hs hin
  rw [step_illegal hin h]
  exact illegalWord_eq_faultTaken hs

/-! ## NOP (R92) -/

/-- Settles O13: `NOP` is its opcode's only legal word, and its pipeline checks hold in every state. -/
theorem nopRule : Obligations.NopRule :=
  ⟨by decide, fun _ hop hc => raisesIllegalCommand_of_decode (decode_nop_opcode hop hc), execNop_eq⟩

/-! ## RDS (R95) -/

theorem bitAt_eq_ite (v : Bool) (n : Nat) : bitAt v n = if v then 1#16 <<< n else 0#16 := by
  cases v <;> simp [bitAt]

/-- `FLAGS` with the one-bit fields at their values in place (R36). -/
theorem Block.flags_eq (b : Block) :
    b.flags = b.mode.bits.setWidth 16 ||| (b.endn.bits.setWidth 16 <<< 2) ||| (if b.dvalid then 0x0010#16 else 0#16) |||
      (if b.zbyte then 0x0020#16 else 0#16) ||| (if b.trunc then 0x0040#16 else 0#16) := by
  simp only [Block.flags, bitAt_eq_ite]
  rfl

/-- Settles O16: the three legal words of the opcode, and the three status views, which the pipeline admits in every
state. -/
theorem rdsRule : Obligations.RdsRule := by
  refine ⟨fun c hop => ?_, fun c hop hc => raisesIllegalCommand_of_decode (decode_rds_opcode hop hc),
    fun s => ⟨?_, ?_, ?_⟩⟩
  · split_ifs with h0 h1 h2
    · subst h0; decide
    · subst h1; decide
    · subst h2; decide
    · exact decode_rds_opcode hop (by simp [h0, h1, h2])
  · rw [← Block.flags_eq]
    exact execRds_run (s := s) (sel := 0#2) rfl
  · exact execRds_run (s := s) (sel := 1#2) rfl
  · exact execRds_run (s := s) (sel := 2#2) rfl

/-! ## One response per command (R91) -/

/-- `ok` in its place in the response word (R71). -/
theorem response_eq (e : Option FaultKind) (ok : Bool) (data : BitVec 16) :
    response e ok data =
      ((errCode e).setWidth 32 <<< 24) ||| (if ok then 0x00010000#32 else 0x00000000#32) ||| data.setWidth 32 := by
  cases ok <;> rfl

/-- How stage 4 can end (R91): a fault carries no data and is recorded; a normal end keeps `ERR`, `RST`'s excepted. -/
theorem Effect.ending {i : Instr} {s : State} {b : Block} {ok : Bool} {data : BitVec 16} (h : Effect i s b ok data) :
    (ok = false → data = 0#16 ∧ b.err ≠ none) ∧ (ok = true → i ≠ .rst → b.err = s.err) := by
  cases i with
  | setmode mode =>
    obtain ⟨m, -, rfl, rfl, rfl⟩ := h
    simp
  | rds sel =>
    obtain ⟨-, rfl, rfl⟩ := h
    simp
  | resolve =>
    rcases h with ⟨-, rfl, rfl, rfl⟩ | ⟨-, o, -, rfl, rfl, rfl⟩ | ⟨-, -, rfl, rfl, rfl⟩ <;> simp
  | nop | rst | ldw _ | rdw _ | rdr _ | pwb _ | rdt _ | hash | rdd _ =>
    obtain ⟨rfl, rfl, rfl⟩ := h
    simp

/-- How every accepted word ends (R91). -/
theorem command_ending (c : CmdWord) (s : State) : ∃ b ok data, command c s = .next (s.answered b ok data) ∧
    (ok = false → data = 0#16 ∧ b.err ≠ none) ∧
    (ok = true → decode c ≠ some .rst → b.err = s.err) ∧
    (decode c = some .rst → ok = true ∧ b.err = none) := by
  rcases command_cases c s with ⟨i, hd, hx⟩ | ⟨hd, -, hx⟩ | ⟨hd, hs, hx⟩
  · rw [hx, hd]
    by_cases hi : i = .rst
    · subst hi
      exact ⟨_, _, _, execRst_eq s, by simp⟩
    · rcases exec_cases (wf_of_decode hd) s with ⟨hs, -, hr⟩ | ⟨-, -, hr⟩ | ⟨-, b, ok, data, he, hr⟩
      · exact ⟨_, _, _, hr, by simp [hs, hi]⟩
      · exact ⟨_, _, _, hr, by simp [hi]⟩
      · obtain ⟨hfault, hnormal⟩ := he.ending
        exact ⟨b, ok, data, hr, hfault, fun hok _ => hnormal hok hi, by simp [hi]⟩
  · exact ⟨_, _, _, hx, by simp [hd]⟩
  · exact ⟨_, _, _, hx, by simp [hd, hs]⟩

/-- Settles O11: every branch of `command` ends in one `State.answered`, with the ending `command_ending` names. -/
theorem oneResponsePerCommand : Obligations.OneResponsePerCommand := by
  intro s c rest hin
  obtain ⟨b, ok, data, hx, hfault, hnormal, hrst⟩ := command_ending c { s with inputs := rest }
  refine ⟨_, ok, data, (step_command hin).trans hx, rfl, ?_, hfault, hnormal, hrst⟩
  rw [State.answered_resps, response_eq]
  rfl

/-! ## The fault state (R97, R210) -/

theorem permittedInFault_iff (i : Instr) (b : Block) : permittedInFault i b = true ↔
    i = .nop ∨ i = .rst ∨ (∃ sel, i = .rds sel) ∨ ∃ idx, i = .rdw idx ∧ b.loaded idx = true := by
  cases i <;> simp [permittedInFault]

/-- What the fault state permits beside `RST` leaves the block alone and answers what it would answer without the
fault. -/
theorem exec_permittedInFault {i : Instr} {s : State} (hs : s.err ≠ none) (hp : permittedInFault i s.toBlock = true)
    (hi : i ≠ .rst) (hw : i.wf = true) : ∃ data, exec i s = .next (dataGiven s data) ∧
      exec i { s with err := none } = .next (dataGiven { s with err := none } data) := by
  rcases (permittedInFault_iff i _).1 hp with rfl | rfl | ⟨sel, rfl⟩ | ⟨idx, rfl, hl⟩
  · exact ⟨_, execNop_eq s, execNop_eq _⟩
  · exact absurd rfl hi
  · obtain ⟨data, hdata⟩ := status?_isSome s.toBlock (sel := sel) (by simpa [Instr.wf] using hw)
    exact ⟨data, execRds_run hdata, execRds_run (s := { s with err := none }) hdata⟩
  · exact ⟨_, execRdw_run (.inr ⟨hs, hp⟩), execRdw_run (s := { s with err := none }) (.inl ⟨rfl, hl⟩)⟩

/-- Everything a word other than `RST` can do in the fault state (R97): a permitted command answers, anything else is
refused. -/
theorem command_inFault_cases {c : CmdWord} {s : State} (hs : s.err ≠ none) (hc : decode c ≠ some .rst) :
    (∃ i data, decode c = some i ∧ permittedInFault i s.toBlock = true ∧ command c s = .next (dataGiven s data) ∧
      command c { s with err := none } = .next (dataGiven { s with err := none } data)) ∨
    ((∀ i, decode c = some i → permittedInFault i s.toBlock = false) ∧ command c s = .next (refusalGiven s)) := by
  cases hd : decode c with
  | none => exact .inr ⟨by simp, by rw [command_of_illegal hd, illegalWord_eq_refusalGiven hs]⟩
  | some i =>
    have hi : i ≠ .rst := by rintro rfl; exact hc hd
    have hw := wf_of_decode hd
    simp only [command_of_decode hd]
    cases hp : permittedInFault i s.toBlock with
    | true =>
      obtain ⟨data, hx, hx'⟩ := exec_permittedInFault hs hp hi hw
      exact .inl ⟨i, data, rfl, hp, hx, hx'⟩
    | false =>
      obtain ⟨b, ok, data, -, hx⟩ := exec_eq_runChecked hw s
      refine .inr ⟨by simp [hp], ?_⟩
      rw [hx, runChecked_refused hs hp, refuse_eq]
      rfl

theorem command_rst (s : State) : command 0x01000000#32 s = .next (s.answered s.toBlock.cleared true 0#16) := by
  rw [command_of_decode ((decode_eq_rst_iff _).2 rfl)]
  exact execRst_eq s

/-- The response of `RST` (R93). -/
theorem response_rst : response none true 0#16 = 0x00010000#32 := by decide

/-- Settles O48: `RST` clears `ERR`; for every other word the two cases of `command_inFault_cases`, read off as `ok`. -/
theorem faultStateRefusesTheRest : Obligations.FaultStateRefusesTheRest := by
  refine ⟨fun s rest _ hin => ⟨_, (step_command hin).trans (command_rst _), rfl, ?_⟩,
    fun s f c rest hs hin hc => ?_⟩
  · rw [State.answered_resps, Block.cleared_err, response_rst]
  have hs' : ({ s with inputs := rest } : State).err ≠ none := by simp [hs]
  rw [step_command hin, ← hs]
  rcases command_inFault_cases hs' hc with ⟨i, data, hd, hp, hx, hx'⟩ | ⟨hnot, hx⟩
  · have hx'' := (step_command (s := { s with err := none }) hin).trans hx'
    refine ⟨_, true, data, hx, rfl, rfl, by simp, ?_, fun _ => ⟨_, hx'', rfl⟩⟩
    have hpermitted := (permittedInFault_iff i _).1 hp
    have hi : i ≠ .rst := by rintro rfl; exact hc hd
    simpa [hd, hi, Block.loaded_iff] using hpermitted
  · refine ⟨_, false, 0#16, hx, rfl, rfl, by simp, ?_, by simp⟩
    simp only [Bool.false_eq_true, false_iff]
    rintro (hd | ⟨sel, hd⟩ | ⟨idx, hd, hl⟩)
    · exact absurd (hnot _ hd) (by simp [permittedInFault])
    · exact absurd (hnot _ hd) (by simp [permittedInFault])
    · exact absurd ((Block.loaded_iff s.toBlock idx).2 hl) (by simpa [permittedInFault] using hnot _ hd)

/-! ## RST (R93) -/

/-- The block `RST` leaves and the block a pulse of `rst_n` leaves differ in unloaded words and an invalid digest only. -/
theorem cleared_indistinguishable_hardwareReset (s : State) :
    Indistinguishable s.toBlock.cleared (hardwareReset s).toBlock := by
  constructor <;> simp

/-- Settles O14: `RST` is `Block.cleared` in every state; any other word in the fault state leaves the block as it is. -/
theorem rstRule : Obligations.RstRule := by
  refine ⟨by decide, fun s t c rest hs hin hstep => ?_,
    fun s => ⟨s.toBlock.cleared, rfl, execRst_eq s, cleared_indistinguishable_hardwareReset s⟩⟩
  rw [step_command hin] at hstep
  constructor
  · intro ht
    by_contra hc
    rw [← decode_eq_rst_iff] at hc
    have hkept : t.err = s.err := by
      rcases command_inFault_cases (s := { s with inputs := rest }) hs hc with ⟨_, data, -, -, hx, -⟩ | ⟨-, hx⟩
      · cases hx.symm.trans hstep; rfl
      · cases hx.symm.trans hstep; rfl
    exact hs (hkept.symm.trans ht)
  · rintro rfl
    cases (command_rst _).symm.trans hstep
    rfl

/-! ## SETMODE (R94) -/

theorem modeOf?_bits (m : Mode) : modeOf? m.bits = some m := by
  cases m <;> rfl

theorem execSetmode_sequenceError {s : State} (m : Mode) (hs : s.err = none) (hend : s.endn ≠ .none) :
    execSetmode m.bits s = .next (faultTaken s .sequenceError) := by
  have hpre : precondition (.setmode m.bits) s.toBlock = false := beq_eq_false_iff_ne.2 hend
  rw [execSetmode, modeOf?_bits]
  exact runChecked_sequenceError hs hpre

/-- `LDW` does not read `MODE`. -/
theorem Block.loadWord_withMode (b : Block) (m : Mode) (w : IdWord) :
    ({ b with mode := m } : Block).loadWord w = { b.loadWord w with mode := m } := by
  unfold Block.loadWord
  split
  · rfl
  · split <;> rfl

/-- `PWB` does not read `MODE`. -/
theorem Block.pushByte_withMode (b : Block) (m : Mode) (d : DigitOrder) (x : Byte) :
    ({ b with mode := m } : Block).pushByte d x = { b.pushByte d x with mode := m } := by
  unfold Block.pushByte
  split
  · split <;> rfl
  · rfl

/-- The digest does not depend on `MODE`. -/
theorem Block.digestOf_withMode (b : Block) (m : Mode) : ({ b with mode := m } : Block).digestOf = b.digestOf := rfl

/-- Stage 4 of a command other than `RESOLVE` writes the same whatever `MODE` is, and reads the same unless it is
`RDS flags`. -/
theorem Effect.withMode {i : Instr} {s : State} {m : Mode} {b b' : Block} {ok ok' : Bool} {data data' : BitVec 16}
    (hi : i ≠ .resolve) (h : Effect i s b ok data) (h' : Effect i { s with mode := m } b' ok' data') :
    { b' with mode := b.mode } = b ∧ ok' = ok ∧ (i ≠ .rds 0#2 → data' = data) := by
  cases i with
  | resolve => exact absurd rfl hi
  | setmode mode =>
    obtain ⟨n, hn, rfl, rfl, rfl⟩ := h
    obtain ⟨n', hn', rfl, rfl, rfl⟩ := h'
    exact ⟨rfl, rfl, fun _ => rfl⟩
  | rds sel =>
    obtain ⟨hd, rfl, rfl⟩ := h
    obtain ⟨hd', rfl, rfl⟩ := h'
    refine ⟨rfl, rfl, fun hsel => ?_⟩
    have h0 : sel ≠ 0#2 := fun e => hsel (congrArg Instr.rds e)
    simp only [Block.status?, if_neg h0] at hd hd'
    exact Option.some.inj (hd'.symm.trans hd)
  | ldw w =>
    obtain ⟨rfl, rfl, rfl⟩ := h
    obtain ⟨rfl, rfl, rfl⟩ := h'
    exact ⟨by rw [Block.loadWord_withMode], rfl, fun _ => rfl⟩
  | pwb x =>
    obtain ⟨rfl, rfl, rfl⟩ := h
    obtain ⟨rfl, rfl, rfl⟩ := h'
    exact ⟨by rw [Block.pushByte_withMode], rfl, fun _ => rfl⟩
  | hash =>
    obtain ⟨rfl, rfl, rfl⟩ := h
    obtain ⟨rfl, rfl, rfl⟩ := h'
    exact ⟨by rw [Block.digestOf_withMode]; rfl, rfl, fun _ => rfl⟩
  | nop | rst | rdw _ | rdr _ | rdt _ | rdd _ =>
    obtain ⟨rfl, rfl, rfl⟩ := h
    obtain ⟨rfl, rfl, rfl⟩ := h'
    exact ⟨rfl, rfl, fun _ => rfl⟩

/-- The two ends of one command in two states that differ in `MODE` alone: blocks that differ in `MODE` at most, and one
answer unless the command is `RDS flags`. -/
theorem exec_withMode {i : Instr} (hw : i.wf = true) (hi : i ≠ .resolve) (s : State) (m : Mode) :
    ∃ b b' ok data data', exec i s = .next (s.answered b ok data) ∧
      exec i { s with mode := m } = .next (({ s with mode := m } : State).answered b' ok data') ∧
      { b' with mode := b.mode } = b ∧ (i ≠ .rds 0#2 → data' = data) := by
  obtain ⟨b, ok, data, he, hx⟩ := exec_eq_runChecked hw s
  obtain ⟨b', ok', data', he', hx'⟩ := exec_eq_runChecked hw { s with mode := m }
  rw [hx, hx']
  rcases runChecked_cases i s (answer s b ok data) with ⟨hs, hp, hr⟩ | ⟨hs, hp, hr⟩ | ⟨ha, hr⟩
  · rw [hr, runChecked_refused (s := { s with mode := m }) hs ((permittedInFault_mode i _ m).trans hp)]
    exact ⟨_, _, _, _, _, refuse_eq s, refuse_eq _, rfl, fun _ => rfl⟩
  · rw [hr, runChecked_sequenceError (s := { s with mode := m }) hs ((precondition_mode i _ m).trans hp)]
    exact ⟨_, _, _, _, _, raise_eq _ s, raise_eq _ _, rfl, fun _ => rfl⟩
  · have ha' : Admitted i ({ s with mode := m } : State).toBlock := by
      simpa [Admitted, permittedInFault_mode, precondition_mode] using ha
    obtain ⟨hb, rfl, hdata⟩ := he.withMode hi he'
    rw [hr, runChecked_admitted ha']
    exact ⟨b, b', ok', data, data', rfl, rfl, hb, hdata⟩

/-- The same for every accepted word: an illegal word does not read `MODE` either. -/
theorem command_withMode {c : CmdWord} (hc : decode c ≠ some .resolve) (s : State) (m : Mode) :
    ∃ b b' ok data data', command c s = .next (s.answered b ok data) ∧
      command c { s with mode := m } = .next (({ s with mode := m } : State).answered b' ok data') ∧
      { b' with mode := b.mode } = b ∧ (decode c ≠ some (.rds 0#2) → data' = data) := by
  cases hd : decode c with
  | some i =>
    simp only [command_of_decode hd, ne_eq, Option.some.injEq]
    exact exec_withMode (wf_of_decode hd) (by rintro rfl; exact hc hd) s m
  | none =>
    simp only [command_of_illegal hd]
    by_cases hs : s.err = none
    · rw [illegalWord_noFault hs, illegalWord_noFault (s := { s with mode := m }) hs]
      exact ⟨_, _, _, _, _, raise_eq _ s, raise_eq _ _, rfl, fun _ => rfl⟩
    · rw [illegalWord_inFault hs, illegalWord_inFault (s := { s with mode := m }) hs]
      exact ⟨_, _, _, _, _, refuse_eq s, refuse_eq _, rfl, fun _ => rfl⟩

/-- Settles O15: the three legal words of the opcode, the sequence check, and `command_withMode` for the two runs. -/
theorem setmodeRule : Obligations.SetmodeRule := by
  refine ⟨fun c hop => ?_, fun c hop hc => raisesIllegalCommand_of_decode (decode_setmode_opcode hop hc), ?_, ?_⟩
  · split_ifs with h0 h1 h2
    · subst h0; decide
    · subst h1; decide
    · subst h2; decide
    · exact decode_setmode_opcode hop (by simp [h0, h1, h2])
  · rintro s _ m rfl hs
    refine ⟨fun hend => ?_, execSetmode_sequenceError m hs⟩
    exact execSetmode_run (modeOf?_bits m) (.inl ⟨hs, beq_iff_eq.2 hend⟩)
  · intro s t u m c rest hin hc ht hu
    obtain ⟨b, b', ok, data, data', hx, hx', hb, hdata⟩ := command_withMode hc { s with inputs := rest } m
    cases hx.symm.trans ((step_command hin).symm.trans ht)
    cases hx'.symm.trans ((step_command (s := { s with mode := m }) hin).symm.trans hu)
    refine ⟨hb, rfl, fun hflags => ?_⟩
    have herr : b'.err = b.err := by rw [← hb]
    simp [hdata hflags, herr]

end Sys2Proof.Machine
end

section
/-!
The family of 41_identity.md: loading (R112), resolving (R113 to R116, R123), and the two read-backs (R121, R122).
-/

namespace Sys2Proof

/-! ## Decoding an encoded command (R72, R78) -/

theorem encodedFields (i : Instr) : Laws.EncodedFields.Statement i := by
  cases i with
  | nop => exact Laws.EncodedFields.nop
  | rst => exact Laws.EncodedFields.rst
  | setmode mode => exact Laws.EncodedFields.setmode mode
  | rds sel => exact Laws.EncodedFields.rds sel
  | ldw imm16 => exact Laws.EncodedFields.ldw imm16
  | resolve => exact Laws.EncodedFields.resolve
  | rdw idx => exact Laws.EncodedFields.rdw idx
  | rdr idx => exact Laws.EncodedFields.rdr idx
  | pwb imm8 => exact Laws.EncodedFields.pwb imm8
  | rdt idx => exact Laws.EncodedFields.rdt idx
  | hash => exact Laws.EncodedFields.hash
  | rdd idx => exact Laws.EncodedFields.rdd idx

/-- The opcode and the operand field of a command name the command (R73). -/
theorem commandOf_opcode_argField (i : Instr) : commandOf (opcode i) (argField i) = some i := by
  cases i with
  | setmode v | rds v | rdw v | rdr v | pwb v | rdt v | rdd v =>
    exact congrArg some (congrArg _ (extract_setWidth (by decide) v))
  | nop | rst | ldw _ | resolve | hash => rfl

/-- The low two bits of an encoded `SETMODE` or `RDS` are its operand, which is not 3 (R74 item 4). -/
theorem encode_low_ne_three {i : Instr} (hw : i.wf = true) (hop : opcode i = 0x02#8 ∨ opcode i = 0x03#8) :
    (encode i).extractLsb' 0 2 ≠ 3#2 := by
  rw [← argOf_low _ (by decide), encode, argOf_enc]
  cases i with
  | setmode v | rds v =>
    rw [argField, extract_setWidth (by decide)]
    simpa [Instr.wf] using hw
  | nop | rst | ldw _ | resolve | rdw _ | rdr _ | pwb _ | rdt _ | hash | rdd _ => simp [opcode] at hop

theorem legal_encode {i : Instr} (hw : i.wf = true) : legal (encode i) = true := by
  obtain ⟨hop, hrsv, harg, hwithin⟩ := encodedFields i
  obtain ⟨mask, hmask, hin⟩ := (Option.any_eq_true _ _).1 hwithin
  rw [legal_iff, hop, harg]
  exact ⟨mask, hmask, hrsv, hin, encode_low_ne_three hw⟩

theorem decode_encode {i : Instr} (hw : i.wf = true) : decode (encode i) = some i := by
  obtain ⟨hop, -, harg, -⟩ := encodedFields i
  rw [decode, if_pos (legal_encode hw), hop, harg, commandOf_opcode_argField]

theorem encode_ldw (w : IdWord) : encode (.ldw w) = 0x10000000#32 ||| w.setWidth 32 := by
  simp [encode, enc, opcode, argField]

theorem encode_rdw (idx : BitVec 8) : encode (.rdw idx) = 0x12000000#32 ||| idx.setWidth 32 := by
  simp [encode, enc, opcode, argField, BitVec.setWidth_setWidth]

theorem encode_rdr (idx : BitVec 8) : encode (.rdr idx) = 0x13000000#32 ||| idx.setWidth 32 := by
  simp [encode, enc, opcode, argField, BitVec.setWidth_setWidth]

end Sys2Proof

namespace Sys2Proof.Machine

open Sys2Proof.Safety

/-! ## A command the pipeline does not admit (R97, R204) -/

theorem exec_sequenceError {i : Instr} {s : State} (hw : i.wf = true) (hs : s.err = none)
    (hp : precondition i s.toBlock = false) : exec i s = .next (faultTaken s .sequenceError) := by
  obtain ⟨b, ok, data, -, hx⟩ := exec_eq_runChecked hw s
  rw [hx, runChecked_sequenceError hs hp, raise_eq]
  rfl

theorem exec_refused {i : Instr} {s : State} (hw : i.wf = true) (hs : s.err ≠ none)
    (hp : permittedInFault i s.toBlock = false) : exec i s = .next (refusalGiven s) := by
  obtain ⟨b, ok, data, -, hx⟩ := exec_eq_runChecked hw s
  rw [hx, runChecked_refused hs hp, refuse_eq]
  rfl

/-! ## LDW (R112) -/

theorem Block.loadWord_of_lt {b : Block} (w : IdWord) (h : b.wcnt.toNat < 256) :
    b.loadWord w = { b with raw := b.raw.setIfInBounds b.wcnt.toNat w, wcnt := b.wcnt + 1#9 } := by
  have hlt : b.wcnt < 256#9 := by bv_omega
  rw [Block.loadWord, if_pos hlt]

theorem Block.loadWord_of_eq {b : Block} (w : IdWord) (h : b.wcnt.toNat = 256) :
    b.loadWord w = { b with wcnt := 257#9 } := by
  have heq : b.wcnt = 256#9 := by bv_omega
  simp [Block.loadWord, heq]

theorem Block.loadWord_of_gt {b : Block} (w : IdWord) (h : 256 < b.wcnt.toNat) : b.loadWord w = b := by
  have hlt : ¬ b.wcnt < 256#9 := by bv_omega
  have hne : b.wcnt ≠ 256#9 := by bv_omega
  rw [Block.loadWord, if_neg hlt, if_neg hne]

/-- `LDW` before a resolution is `Block.loadWord`. -/
theorem exec_ldw {s : State} (w : IdWord) (hs : s.err = none) (hend : s.endn = .none) :
    exec (.ldw w) s = .next (s.answered (s.toBlock.loadWord w) true 0#16) :=
  execLdw_run (.inl ⟨hs, beq_iff_eq.2 hend⟩)

/-- Settles O18: the sequence check, then `exec_ldw` with the three cases of `Block.loadWord`. -/
theorem ldwRule : Obligations.LdwRule := by
  refine ⟨fun w => ?_, fun s w hs => ⟨fun hend => ?_, fun hend hc => ?_, fun hend hc => ?_, fun hend hc => ?_⟩⟩
  · rw [← encode_ldw, decode_encode (i := .ldw w) rfl]
  · exact exec_sequenceError rfl hs (beq_eq_false_iff_ne.2 hend)
  · rw [exec_ldw w hs hend, Block.loadWord_of_lt w hc]
  · rw [exec_ldw w hs hend, Block.loadWord_of_eq w hc]
  · rw [exec_ldw w hs hend, Block.loadWord_of_gt w (by omega)]
    rfl

/-! ## RES (R27) -/

theorem Block.res_native {b : Block} (h : b.endn = .native) (i : Fin 256) : b.res i = b.raw[i] := by
  rw [Block.res, h, resIn_native]

theorem Block.res_swapped {b : Block} (h : b.endn = .swapped) (i : Fin 256) : b.res i = bswap16 b.raw[i] := by
  rw [Block.res, h, resIn_swapped]

theorem highByte_bswap16 (w : IdWord) : highByte (bswap16 w) = lowByte w := highByte_append _ _

theorem lowByte_bswap16 (w : IdWord) : lowByte (bswap16 w) = highByte w := lowByte_append _ _

/-! ## RESOLVE (R113 to R116) -/

theorem admitted_resolve {b : Block} (hs : b.err = none) (hend : b.endn = .none) : Admitted .resolve b :=
  .inl ⟨hs, beq_iff_eq.2 hend⟩

/-- `RESOLVE` runs only while `END` is `NONE` (R113). -/
theorem Admitted.endn_of_resolve {b : Block} (h : Admitted .resolve b) : b.endn = .none := by
  rcases h with ⟨-, hp⟩ | ⟨-, hp⟩
  · exact beq_iff_eq.1 hp
  · simp [permittedInFault] at hp

theorem Block.orderToFix_native {b : Block} (h : b.mode = .native) : b.orderToFix = some .native := by
  rw [Block.orderToFix, h]

theorem Block.orderToFix_reverse {b : Block} (h : b.mode = .reverse) : b.orderToFix = some .swapped := by
  rw [Block.orderToFix, h]

/-- Settles O20: the count check comes first, and its fault is not the one that writes `END`. -/
theorem resolveCountsFirst : Obligations.ResolveCountsFirst := fun _ hs hend hc =>
  ⟨execResolve_miscounted (admitted_resolve hs hend) hc, hend⟩

/-- Settles O21: mode `native` fixes the order without a look at the record. -/
theorem resolveNative : Obligations.ResolveNative := fun _ hs hend hc hm =>
  ⟨_, execResolve_run (admitted_resolve hs hend) hc (Block.orderToFix_native hm), rfl, Block.res_native rfl⟩

/-- Settles O22: mode `reverse` fixes the order without a look at the record. -/
theorem resolveReverse : Obligations.ResolveReverse := by
  intro s hs hend hc hm
  refine ⟨_, execResolve_run (admitted_resolve hs hend) hc (Block.orderToFix_reverse hm), rfl, fun i => ?_⟩
  rw [Block.res_swapped rfl]
  exact ⟨highByte_bswap16 s.raw[i], lowByte_bswap16 s.raw[i]⟩

/-! ## RDW and RDR (R121, R122) -/

/-- A loaded word can be read in every state (R121). -/
theorem admitted_rdw {b : Block} {idx : BitVec 8} (h : b.loaded idx = true) : Admitted (.rdw idx) b := by
  by_cases hs : b.err = none
  · exact .inl ⟨hs, h⟩
  · exact .inr ⟨hs, h⟩

/-- Settles O26: both pipeline checks of `RDW` are `Block.loaded`. -/
theorem rdwRule : Obligations.RdwRule := by
  refine ⟨fun idx => ?_, fun s idx => ⟨fun hl => ?_, fun hl => ?_⟩⟩
  · rw [← encode_rdw, decode_encode (i := .rdw idx) rfl]
  · exact execRdw_run (admitted_rdw ((Block.loaded_iff _ _).2 hl))
  · rw [← Block.loaded_iff, Bool.not_eq_true] at hl
    exact ⟨fun hs => exec_sequenceError rfl hs hl, fun hs => exec_refused rfl hs hl⟩

/-- `RDR` of a resolved record answers `RES` (R122). -/
theorem exec_rdr {s : State} (idx : BitVec 8) (hs : s.err = none) (hend : s.endn = .native ∨ s.endn = .swapped) :
    exec (.rdr idx) s = .next (dataGiven s (s.res idx.toFin)) :=
  execRdr_run (.inl ⟨hs, (Block.resolved_iff _).2 hend⟩)

/-- Settles O27: `exec_rdr` with `RES` of either resolved order; otherwise the sequence check or the fault state. -/
theorem rdrRule : Obligations.RdrRule := by
  refine ⟨fun idx => ?_, fun s idx => ⟨fun hs => ⟨fun hend => ?_, fun hend => ?_, fun hend => ?_⟩, fun hs => ?_⟩⟩
  · rw [← encode_rdr, decode_encode (i := .rdr idx) rfl]
  · rw [exec_rdr idx hs (.inl hend), Block.res_native hend]
    rfl
  · rw [exec_rdr idx hs (.inr hend), Block.res_swapped hend]
    rfl
  · have hp : s.toBlock.resolved = false := by
      rcases hend with hend | hend <;> rw [Block.resolved, hend]
    exact exec_sequenceError rfl hs hp
  · exact exec_refused rfl hs rfl

/-! ## One resolution per record (R123) -/

theorem respOk_response (e : Option FaultKind) (ok : Bool) (data : BitVec 16) : respOk (response e ok data) = ok := by
  cases ok <;> simp [respOk, response]

/-- The detector decides for one of the two resolved orders or for none (R117 to R119). -/
theorem detectOrder_resolves {raw : Vector IdWord 256} {o : Order} (h : detectOrder raw = some o) :
    o = .native ∨ o = .swapped := by
  unfold detectOrder at h
  split_ifs at h
  · exact .inl (Option.some.inj h).symm
  · exact .inr (Option.some.inj h).symm
  · exact .inl (Option.some.inj h).symm
  · exact .inr (Option.some.inj h).symm

/-- Whatever order `RESOLVE` fixes is a resolved one. -/
theorem Block.orderToFix_resolves {b : Block} {o : Order} (h : b.orderToFix = some o) : o = .native ∨ o = .swapped := by
  cases hm : b.mode with
  | native => exact .inl (Option.some.inj (h.symm.trans (Block.orderToFix_native hm)))
  | reverse => exact .inr (Option.some.inj (h.symm.trans (Block.orderToFix_reverse hm)))
  | detect =>
    rw [Block.orderToFix, hm] at h
    exact detectOrder_resolves h

/-- A `RESOLVE` ends with `ok = 0`, or with a resolved order and `ok = 1` (R123). -/
theorem exec_resolve_ending (s : State) : ∃ b ok data, exec .resolve s = .next (s.answered b ok data) ∧
    (ok = true → b.endn = .native ∨ b.endn = .swapped) := by
  rcases exec_cases (i := .resolve) rfl s with ⟨-, -, hx⟩ | ⟨-, -, hx⟩ | ⟨-, b, ok, data, he, hx⟩
  · exact ⟨_, _, _, hx, by simp⟩
  · exact ⟨_, _, _, hx, by simp⟩
  · refine ⟨b, ok, data, hx, ?_⟩
    rcases he with ⟨-, -, rfl, -⟩ | ⟨-, o, ho, rfl, -, -⟩ | ⟨-, -, -, rfl, -⟩
    · simp
    · exact fun _ => Block.orderToFix_resolves ho
    · simp

/-- Only `RST` and `RESOLVE` write `END` at stage 4 (R26). -/
theorem Effect.endn_eq {i : Instr} {s : State} {b : Block} {ok : Bool} {data : BitVec 16} (h : Effect i s b ok data)
    (hrst : i ≠ .rst) (hres : i ≠ .resolve) : b.endn = s.endn := by
  cases i with
  | rst => exact absurd rfl hrst
  | resolve => exact absurd rfl hres
  | setmode mode =>
    obtain ⟨m, -, rfl, -, -⟩ := h
    rfl
  | rds sel =>
    obtain ⟨-, rfl, -⟩ := h
    rfl
  | nop | ldw _ | rdw _ | rdr _ | pwb _ | rdt _ | hash | rdd _ =>
    obtain ⟨rfl, -, -⟩ := h
    simp

/-- Once `END` is not `NONE`, no word but `RST` changes it (R123). -/
theorem command_endn_kept {c : CmdWord} {s t : State} (hend : s.endn ≠ .none) (hc : decode c ≠ some .rst)
    (h : command c s = .next t) : t.endn = s.endn := by
  rcases command_cases c s with ⟨i, hd, hx⟩ | ⟨-, -, hx⟩ | ⟨-, -, hx⟩
  · rw [hx] at h
    rcases exec_cases (wf_of_decode hd) s with ⟨-, -, hr⟩ | ⟨-, -, hr⟩ | ⟨ha, b, ok, data, he, hr⟩
    · cases hr.symm.trans h; rfl
    · cases hr.symm.trans h; rfl
    · cases hr.symm.trans h
      have hrst : i ≠ .rst := by rintro rfl; exact hc hd
      have hres : i ≠ .resolve := by rintro rfl; exact hend ha.endn_of_resolve
      exact he.endn_eq hrst hres
  · cases hx.symm.trans h; rfl
  · cases hx.symm.trans h; rfl

/-- In the fault state no word but `RST` changes the block (R97, R123). -/
theorem command_inFault_block_kept {c : CmdWord} {s t : State} (hs : s.err ≠ none) (hc : decode c ≠ some .rst)
    (h : command c s = .next t) : t.toBlock = s.toBlock := by
  rcases command_inFault_cases hs hc with ⟨_, _, -, -, hx, -⟩ | ⟨-, hx⟩
  · cases hx.symm.trans h; rfl
  · cases hx.symm.trans h; rfl

/-- Settles O25: `exec_resolve_ending` for a completed `RESOLVE`, the sequence check of the three commands, and
the frames of `END` once it is resolved and of the whole block once a fault stands. -/
theorem resolvedOncePerRecord : Obligations.ResolvedOncePerRecord := by
  have endn_ne_none : ∀ {o : Order}, o = .native ∨ o = .swapped → o ≠ .none := by
    rintro _ (rfl | rfl) <;> decide
  refine ⟨fun s t r hx hr hok => ?_, fun s m w hs hend hm => ?_, fun s t c rest hin hend hc hstep => ?_,
    fun s t w _ _ ht => exec_refused rfl ht rfl, fun s t v c rest _ _ ht hc hstep => ?_⟩
  · obtain ⟨b, ok, data, hx', hresolved⟩ := exec_resolve_ending s
    cases hx'.symm.trans hx
    obtain rfl : response b.err ok data = r := by simpa using hr
    exact hresolved ((respOk_response _ _ _).symm.trans hok)
  · have hp : (s.endn == .none) = false := beq_eq_false_iff_ne.2 (endn_ne_none hend)
    exact ⟨exec_sequenceError (by simpa [Instr.wf] using hm) hs hp, exec_sequenceError rfl hs hp,
      exec_sequenceError rfl hs hp⟩
  · exact command_endn_kept (s := { s with inputs := rest }) (endn_ne_none hend) hc ((step_command hin).symm.trans hstep)
  · exact command_inFault_block_kept (s := { t with inputs := rest }) ht hc
      ((step_command (s := { t with inputs := .cmd c :: rest }) rfl).symm.trans hstep)

end Sys2Proof.Machine
end

section
/-!
The family of 42_translator.md: the alphabet and the translation table (R140 to R143), `PWB` (R144, R145) and `RDT` (R147).
-/

namespace Sys2Proof

/-! ## A bit of `arg` above the operand (R74 item 3) -/

/-- A word is illegal when a field of its `arg` above the low `n` bits its opcode leaves open is not 0. -/
theorem decode_eq_none_of_arg_high {c : CmdWord} {op : BitVec 8} {mask : BitVec 16} {n m : Nat} (hop : opOf c = op)
    (hmask : argMask? op = some mask) (hopen : ∀ j, j < 16 → n ≤ j → mask.getLsbD j = false) (hm : n + m ≤ 16)
    (h : c.extractLsb' n m ≠ 0#m) : decode c = none := by
  rw [decode_eq_none_iff, legal_iff, hop]
  rintro ⟨mask', hmask', -, hwithin, -⟩
  obtain rfl : mask = mask' := Option.some.inj (hmask.symm.trans hmask')
  have harg : ((argOf c).extractLsb' 0 n).setWidth 16 = argOf c := setWidth_of_argWithin hwithin hopen
  refine h (BitVec.eq_of_getLsbD_eq fun i hi => ?_)
  have hbit : (argOf c).getLsbD (n + i) = false := by
    rw [← harg]
    simp
  simpa [argOf, hi, show n + i < 16 by omega] using hbit

theorem encode_pwb (x : Byte) : encode (.pwb x) = 0x20000000#32 ||| x.setWidth 32 := by
  simp [encode, enc, opcode, argField, BitVec.setWidth_setWidth]

theorem encode_rdt (idx : BitVec 6) : encode (.rdt idx) = 0x21000000#32 ||| idx.setWidth 32 := by
  simp [encode, enc, opcode, argField, BitVec.setWidth_setWidth]

end Sys2Proof

namespace Sys2Proof.Machine

open Sys2Proof.Safety

/-! ## The alphabet (R140, R141) -/

/-- The codes of the 38 characters of R140, in its order. -/
def alphabet : List Byte :=
  ['0', '1', '2', '3', '4', '5', '6', '7', '8', '9', 'q', 'w', 'e', 'r', 't', 'y', 'u', 'i', 'o', 'p',
   'a', 's', 'd', 'f', 'g', 'h', 'j', 'k', 'l', ';', 'z', 'x', 'c', 'v', 'b', 'n', 'm', ' '].map
    (fun ch => BitVec.ofNat 8 ch.toNat)

/-- The `n` consecutive codes from `a` on. -/
def codeRun (a n : Nat) : List Byte := (List.range' a n).map (BitVec.ofNat 8)

theorem mem_codeRun {a n : Nat} (h : a + n ≤ 256) (c : Byte) : c ∈ codeRun a n ↔ a ≤ c.toNat ∧ c.toNat < a + n := by
  rw [codeRun, List.mem_map]
  constructor
  · rintro ⟨k, hk, rfl⟩
    have hk' := List.mem_range'_1.1 hk
    rwa [BitVec.toNat_ofNat, Nat.mod_eq_of_lt (by omega)]
  · exact fun hc => ⟨c.toNat, List.mem_range'_1.2 hc, by simp⟩

theorem nodup_codeRun {a n : Nat} (h : a + n ≤ 256) : (codeRun a n).Nodup := by
  refine List.Nodup.map_on (fun x hx y hy hxy => ?_) List.nodup_range'
  have hx' := List.mem_range'_1.1 hx
  have hy' := List.mem_range'_1.1 hy
  have hmod := congrArg BitVec.toNat hxy
  rwa [BitVec.toNat_ofNat, BitVec.toNat_ofNat, Nat.mod_eq_of_lt (by omega), Nat.mod_eq_of_lt (by omega)] at hmod

/-- In the order of their codes the 38 characters are the space, the semicolon, the ten digits and the 26 letters. -/
theorem alphabet_perm_runs : alphabet.Perm (0x20#8 :: 0x3B#8 :: (codeRun 0x30 10 ++ codeRun 0x61 26)) := by decide

theorem nodup_alphabet : alphabet.Nodup := by decide

theorem mem_alphabet_iff (c : Byte) : c ∈ alphabet ↔
    c = 0x20#8 ∨ c = 0x3B#8 ∨ 0x30 ≤ c.toNat ∧ c.toNat ≤ 0x39 ∨ 0x61 ≤ c.toNat ∧ c.toNat ≤ 0x7A := by
  rw [alphabet_perm_runs.mem_iff, List.mem_cons, List.mem_cons, List.mem_append, mem_codeRun (by omega),
    mem_codeRun (by omega)]
  bv_omega

theorem fold_eq_ite (b : Byte) : fold b = if 0x41 ≤ b.toNat ∧ b.toNat ≤ 0x5A then b + 0x20#8 else b := by
  simp [fold, BitVec.le_def]

/-- What folds into the alphabet is the alphabet itself and the 26 capitals. -/
theorem fold_mem_alphabet_iff (b : Byte) : fold b ∈ alphabet ↔ b ∈ alphabet ∨ b ∈ codeRun 0x41 26 := by
  rw [fold_eq_ite, mem_codeRun (by omega), mem_alphabet_iff, mem_alphabet_iff]
  split <;> bv_omega

/-! ## The translation table (R142, R143) -/

/-- Either digit order gives a row to each of the 38 characters, and to no other byte. -/
theorem xlat_keys_perm (d : DigitOrder) : ((digitRows d ++ letterRows).map Prod.fst).Perm alphabet := by
  cases d <;> decide

/-- Either digit order gives out each of the 38 mapped bytes, each once. -/
theorem xlat_values_perm (d : DigitOrder) : ((digitRows d ++ letterRows).map Prod.snd).Perm alphabetValues := by
  cases d <;> decide

theorem row_mem_of_xlat {d : DigitOrder} {c v : Byte} (h : xlat d c = some v) : (c, v) ∈ digitRows d ++ letterRows := by
  obtain ⟨before, after, hrows, -⟩ := List.lookup_eq_some_iff.1 h
  rw [hrows]
  exact List.mem_append_right _ List.mem_cons_self

theorem xlat_ne_none_iff (d : DigitOrder) (c : Byte) : xlat d c ≠ none ↔ c ∈ alphabet := by
  rw [← (xlat_keys_perm d).mem_iff, xlat, ne_eq, List.lookup_eq_none_iff]
  simp [exists_or]

theorem mapByte_ne_none_iff (d : DigitOrder) (b : Byte) : mapByte d b ≠ none ↔ fold b ∈ alphabet :=
  xlat_ne_none_iff d (fold b)

/-- A mapped byte is one of the 38 of R40. -/
theorem mem_alphabetValues_of_xlat {d : DigitOrder} {c v : Byte} (h : xlat d c = some v) : v ∈ alphabetValues :=
  (xlat_values_perm d).mem_iff.1 (List.mem_map_of_mem (f := Prod.snd) (row_mem_of_xlat h))

theorem alphabetValues_bounds : ∀ v ∈ alphabetValues, v ≠ 0x00#8 ∧ v.toNat ≤ 0x39 := by decide

/-- No two characters share a mapped byte. -/
theorem xlat_injective {d : DigitOrder} {c e v : Byte} (hc : xlat d c = some v) (he : xlat d e = some v) : c = e := by
  have hvalues : ((digitRows d ++ letterRows).map Prod.snd).Nodup := (xlat_values_perm d).nodup_iff.2 (by decide)
  exact congrArg Prod.fst (List.inj_on_of_nodup_map hvalues (row_mem_of_xlat hc) (row_mem_of_xlat he) rfl)

/-- 64 bytes are recognised: the 38 characters and the 26 capitals. -/
theorem recognised_count (d : DigitOrder) : ((codeRun 0 256).filter fun b => (mapByte d b).isSome).length = 64 := by
  have hdisjoint : alphabet.Disjoint (codeRun 0x41 26) := fun b hb hcap => by
    rw [mem_codeRun (by omega)] at hcap
    rw [mem_alphabet_iff] at hb
    bv_omega
  have hnodup : (alphabet ++ codeRun 0x41 26).Nodup := nodup_alphabet.append (nodup_codeRun (by omega)) hdisjoint
  have hperm : ((codeRun 0 256).filter fun b => (mapByte d b).isSome).Perm (alphabet ++ codeRun 0x41 26) := by
    refine (List.perm_ext_iff_of_nodup ((nodup_codeRun (by omega)).filter _) hnodup).2 fun b => ?_
    rw [List.mem_filter, List.mem_append, Option.isSome_iff_ne_none, mapByte_ne_none_iff, fold_mem_alphabet_iff,
      mem_codeRun (by omega)]
    exact and_iff_right (by omega)
  exact hperm.length_eq

/-- Off the ten digits the table is its letter rows, in either digit order. -/
theorem xlat_of_not_digit (d : DigitOrder) {c : Byte} (hc : ¬ (0x30 ≤ c.toNat ∧ c.toNat ≤ 0x39)) :
    xlat d c = letterRows.lookup c := by
  have hkeys : ((digitRows d).map Prod.fst).Perm (codeRun 0x30 10) := by cases d <;> decide
  have hnone : (digitRows d).lookup c = none := by
    rw [List.lookup_eq_none_iff]
    intro row hrow
    have hdigit := (mem_codeRun (by omega) _).1 (hkeys.mem_iff.1 (List.mem_map_of_mem (f := Prod.fst) hrow))
    rw [bne_iff_ne]
    rintro rfl
    omega
  rw [xlat, List.lookup_append, hnone, Option.none_or]

/-- Settles O29: recognition is `mapByte_ne_none_iff`, and neither the alphabet nor the capitals that fold into it reach
0x80. -/
theorem alphabetRule : Obligations.AlphabetRule := by
  refine ⟨fold_eq_ite, alphabet, rfl, rfl, nodup_alphabet, fun d b => ⟨mapByte_ne_none_iff d b, fun hb => ?_⟩⟩
  by_contra h
  rw [← ne_eq, mapByte_ne_none_iff, fold_mem_alphabet_iff, mem_codeRun (by omega), mem_alphabet_iff] at h
  bv_omega

/-- Settles O30: the runs are read off the rows; the domain and the values are `xlat_keys_perm` and `xlat_values_perm`. -/
theorem translationTable : Obligations.TranslationTable := by
  refine ⟨rfl, fun d => ⟨by cases d <;> rfl, by cases d <;> rfl, by cases d <;> rfl, by cases d <;> rfl, fun c => ?_, ?_,
    fun c v h => alphabetValues_bounds v (mem_alphabetValues_of_xlat h), fun c e v => xlat_injective⟩⟩
  · rw [xlat_ne_none_iff, mem_alphabet_iff]
  · rw [List.range_eq_range']
    exact recognised_count d

/-- Settles O31: the digit rows one by one, and `xlat_of_not_digit` for both settings. -/
theorem digitOrderRule : Obligations.DigitOrderRule :=
  ⟨by decide, by decide, rfl, fun _ hc => (xlat_of_not_digit .ascending hc).trans (xlat_of_not_digit .keyboard hc).symm⟩

/-! ## PWB (R144, R145) -/

theorem Block.pushByte_of_lt {b : Block} {d : DigitOrder} {x v : Byte} (hv : mapByte d x = some v)
    (h : b.plen.toNat < 64) :
    b.pushByte d x = { b with tp := b.tp.setIfInBounds b.plen.toNat v, plen := b.plen + 1#7 } := by
  have hlt : b.plen < 64#7 := by bv_omega
  simp [Block.pushByte, hv, hlt]

theorem Block.pushByte_of_ge {b : Block} {d : DigitOrder} {x v : Byte} (hv : mapByte d x = some v)
    (h : 64 ≤ b.plen.toNat) : b.pushByte d x = { b with trunc := true } := by
  have hlt : ¬ b.plen < 64#7 := by bv_omega
  simp [Block.pushByte, hv, hlt]

theorem Block.pushByte_of_none {b : Block} {d : DigitOrder} {x : Byte} (h : mapByte d x = none) : b.pushByte d x = b := by
  simp [Block.pushByte, h]

/-- `PWB` before a digest is `Block.pushByte`. -/
theorem exec_pwb {s : State} (x : Byte) (hs : s.err = none) (hd : s.dvalid = false) :
    exec (.pwb x) s = .next (s.answered (s.toBlock.pushByte s.cfg.digitOrder x) true 0#16) :=
  execPwb_run (.inl ⟨hs, by rw [precondition, hd]; rfl⟩)

/-- Settles O32: the sequence check, then `exec_pwb` with the three cases of `Block.pushByte`. -/
theorem pwbRule : Obligations.PwbRule := by
  refine ⟨fun x => ?_, fun c hop hc => raisesIllegalCommand_of_decode ?_, fun s x hs => ⟨fun hd => ?_, fun hd =>
    ⟨fun v hv hp => ?_, fun v hv hp => ?_, fun hv => ?_⟩⟩⟩
  · rw [← encode_pwb, decode_encode (i := .pwb x) rfl]
  · exact decode_eq_none_of_arg_high (mask := 0x00FF#16) hop rfl (by decide) (by decide) hc
  · exact exec_sequenceError rfl hs (by rw [precondition, hd]; rfl)
  · rw [exec_pwb x hs hd, Block.pushByte_of_lt hv hp]
  · rw [exec_pwb x hs hd, Block.pushByte_of_ge hv hp.ge]
  · rw [exec_pwb x hs hd, Block.pushByte_of_none hv]
    rfl

/-! ## RDT (R147) -/

/-- `RDT` without a fault answers the byte of `TP`, whatever the phase. -/
theorem exec_rdt {s : State} (idx : BitVec 6) (hs : s.err = none) :
    exec (.rdt idx) s = .next (dataGiven s ((s.tp[idx.toNat]'idx.isLt).setWidth 16)) :=
  execRdt_run (.inl ⟨hs, rfl⟩)

/-- Settles O34: `exec_rdt`, with the padding invariant of R30 for the indices from `PLEN` on. -/
theorem rdtRule : Obligations.RdtRule := by
  refine ⟨fun idx => ?_, fun c hop hc => raisesIllegalCommand_of_decode ?_,
    fun s idx => ⟨exec_rdt idx, fun hs hr hp => ?_, fun hs => exec_refused rfl hs rfl⟩⟩
  · rw [← encode_rdt, decode_encode (i := .rdt idx) rfl]
  · exact decode_eq_none_of_arg_high (mask := 0x003F#16) hop rfl (by decide) (by decide) hc
  · have hpad : s.tp[idx.toNat]'idx.isLt = 0x00#8 := (hr.padding idx.toFin).2 hp
    rw [exec_rdt idx hs, hpad]
    rfl

end Sys2Proof.Machine
end

section
/-!
The family of 43_digest.md: `FIELDS` (R161), `HASH` (R166), `ZBYTE` (R167) and `RDD` (R168).
-/

namespace Sys2Proof

theorem encode_rdd (idx : BitVec 5) : encode (.rdd idx) = 0x31000000#32 ||| idx.setWidth 32 := by
  simp [encode, enc, opcode, argField, BitVec.setWidth_setWidth]

end Sys2Proof

namespace Sys2Proof.Machine

open Sys2Proof.Safety

/-! ## FIELDS (R54, R161) -/

theorem length_flatMap_wordBytes (ws : List IdWord) : (ws.flatMap wordBytes).length = 2 * ws.length := by
  induction ws with
  | nil => rfl
  | cons w ws ih => simp [wordBytes, ih]; omega

/-- In a serialisation of words, word `k` has its low byte at `2k` and its high byte at `2k + 1`. -/
theorem flatMap_wordBytes_getElem? {ws : List IdWord} {k : Nat} {w : IdWord} (h : ws[k]? = some w) :
    (ws.flatMap wordBytes)[2 * k]? = some (lowByte w) ∧ (ws.flatMap wordBytes)[2 * k + 1]? = some (highByte w) := by
  induction ws generalizing k with
  | nil => simp at h
  | cons v ws ih =>
    rw [List.flatMap_cons]
    cases k with
    | zero =>
      obtain rfl : v = w := Option.some.inj h
      exact ⟨rfl, rfl⟩
    | succ k => exact ih h

/-- `FIELDS` serialises the resolved words at R161's indices. -/
theorem Block.fields_eq (b : Block) : b.fields = (fieldIndices.map b.res).flatMap wordBytes :=
  (List.flatMap_map ..).symm

/-- The `k`-th of R161's indices: 10 to 19, then 27 to 46. -/
theorem fieldIndices_getElem? : ∀ k : Fin 30,
    (fieldIndices[k.val]?).map Fin.val = some (if k.val < 10 then 10 + k.val else 17 + k.val) := by
  decide

/-- Settles O36: `FIELDS` is a serialisation of words, of which `fieldIndices_getElem?` names the `k`-th. -/
theorem fieldsSerialisation : Obligations.FieldsSerialisation := by
  refine fun b => ⟨?_, fun k i hi => ?_⟩
  · rw [Block.fields_eq, length_flatMap_wordBytes, List.length_map]
    rfl
  · obtain ⟨j, hj, hji⟩ := Option.map_eq_some_iff.1 (fieldIndices_getElem? k)
    obtain rfl : j = i := Fin.ext (hji.trans hi.symm)
    have hword : (fieldIndices.map b.res)[k.val]? = some (b.res j) := by rw [List.getElem?_map, hj, Option.map_some]
    rw [Block.fields_eq]
    exact flatMap_wordBytes_getElem? hword

/-! ## HASH (R166, R167) -/

/-- The sequence check of `HASH` is `readyToHash` (R204). -/
theorem precondition_hash_iff {b : Block} (hs : b.err = none) : precondition .hash b = true ↔ readyToHash b := by
  simp [precondition, readyToHash, Block.resolved_iff, hs]

/-- `HASH` of a block ready to hash stores `digestOf`. -/
theorem exec_hash {s : State} (h : readyToHash s.toBlock) :
    exec .hash s = .next (s.answered (s.toBlock.storeDigest s.toBlock.digestOf) true 0#16) :=
  execHash_run (.inl ⟨h.1, (precondition_hash_iff h.1).2 h⟩)

/-- Settles O35: `exec_hash`, and the sequence check for a block not ready. -/
theorem hashRule : Obligations.HashRule := by
  refine ⟨by decide, fun s => ⟨fun h => ⟨s.toBlock.digestOf, rfl, exec_hash h⟩, fun hs h => ?_⟩⟩
  rw [← precondition_hash_iff hs, Bool.not_eq_true] at h
  exact exec_sequenceError rfl hs h

theorem hasZeroByte_iff (d : Vector Byte 32) : hasZeroByte d = true ↔ ∃ i : Fin 32, d[i] = 0x00#8 := by
  rw [hasZeroByte, List.contains_iff_mem, Vector.mem_toList_iff, Vector.mem_iff_getElem, Fin.exists_iff]
  rfl

/-! ## RDD (R168) -/

/-- `RDD` of a valid digest answers its byte. -/
theorem exec_rdd {s : State} (idx : BitVec 5) (hs : s.err = none) (hd : s.dvalid = true) :
    exec (.rdd idx) s = .next (dataGiven s ((s.digest[idx.toNat]'idx.isLt).setWidth 16)) :=
  execRdd_run (.inl ⟨hs, hd⟩)

/-- Settles O43: the encoding, then `exec_rdd`, the sequence check or the refusal. -/
theorem rddRule : Obligations.RddRule := by
  refine ⟨fun idx => ?_, fun c hop hc => raisesIllegalCommand_of_decode ?_,
    fun s idx => ⟨exec_rdd idx, fun hs hd => exec_sequenceError rfl hs hd,
      fun hs => exec_refused rfl hs rfl⟩⟩
  · rw [← encode_rdd, decode_encode (i := .rdd idx) rfl]
  · exact decode_eq_none_of_arg_high (mask := 0x001F#16) hop rfl (by decide) (by decide) hc

/-- Settles O37: the state `exec_hash` leaves has the flag of the digest it stores, and `exec_rdd` reads that digest. -/
theorem zeroByteFlag : Obligations.ZeroByteFlag := by
  intro s h
  have hs : s.err = none := h.1
  exact ⟨_, exec_hash h, hasZeroByte_iff _, rfl, hs, fun idx => exec_rdd idx hs rfl⟩

end Sys2Proof.Machine
end

section
/-!
The family of 60_exceptions.md: which fault a word raises (R200 to R207), what a fault writes (R208, R209), and how the fault
state is left (R211).
-/

namespace Sys2Proof.Machine

open Sys2Proof.Safety

/-! ## The fault state is left by a reset only (R211) -/

/-- What a reset leaves of the record, the password and the digest (R93, R230). -/
def Discarded (b : Block) : Prop :=
  b.wcnt = 0#9 ∧ b.endn = .none ∧ b.plen = 0#7 ∧ b.tp = Vector.replicate 64 0x00#8 ∧ b.dvalid = false

theorem discarded_cleared (b : Block) : Discarded b.cleared := ⟨rfl, rfl, rfl, rfl, rfl⟩

theorem discarded_hardwareReset (s : State) : Discarded (hardwareReset s).toBlock := discarded_cleared _

/-- A word that leads out of the fault state is `RST`. -/
theorem command_leaves_fault {c : CmdWord} {s t : State} (hs : s.err ≠ none) (hx : command c s = .next t)
    (ht : t.err = none) : c = 0x01000000#32 := by
  rw [← decode_eq_rst_iff]
  by_contra hc
  rw [command_inFault_block_kept hs hc hx] at ht
  exact hs ht

/-- Settles O49: the three kinds of step; an idle one keeps the fault, and a word that ends it is `RST`. -/
theorem onlyResetLeavesTheFaultState : Obligations.OnlyResetLeavesTheFaultState := by
  intro s t hs hstep ht
  rcases step_cases s with ⟨-, hx⟩ | ⟨c, rest, hin, hx⟩ | ⟨rest, hin, hx⟩
  · cases hx.symm.trans hstep
    exact absurd ht hs
  · rw [hx] at hstep
    obtain rfl := command_leaves_fault (s := { s with inputs := rest }) hs hstep ht
    cases (command_rst _).symm.trans hstep
    exact ⟨⟨rest, .inl hin⟩, discarded_cleared _⟩
  · cases hx.symm.trans hstep
    exact ⟨⟨rest, .inr hin⟩, discarded_hardwareReset _⟩

/-! ## The fault a word raises (R207) -/

/-- The fault of a command's own pseudocode, stage 4 of R90: only `RESOLVE` has one, of the count before the order (R113). -/
def bodyFault (i : Instr) (b : Block) : Option FaultKind :=
  if i ≠ .resolve then none
  else if b.wcnt ≠ 256#9 then some .malformedRecord
  else if b.orderToFix = none then some .unknownEndianness
  else none

/-- The fault a word raises in a block without a standing fault, in the order of priority of R207. -/
def wordFault (c : CmdWord) (b : Block) : Option FaultKind :=
  match decode c with
  | none => some .illegalCommand
  | some i => if precondition i b = false then some .sequenceError else bodyFault i b

theorem bodyFault_of_ne {i : Instr} (b : Block) (h : i ≠ .resolve) : bodyFault i b = none := if_pos h

theorem wordFault_of_illegal {c : CmdWord} (b : Block) (h : decode c = none) : wordFault c b = some .illegalCommand := by
  rw [wordFault, h]

theorem wordFault_of_decode {c : CmdWord} {i : Instr} (b : Block) (h : decode c = some i) :
    wordFault c b = if precondition i b = false then some .sequenceError else bodyFault i b := by
  rw [wordFault, h]

theorem answered_faulted (s : State) (f : FaultKind) :
    s.answered (s.toBlock.faulted f) false 0#16 = faultTaken s f := rfl

/-- Stage 4 either takes the fault `bodyFault` names, with the writes of fault entry and no others, or leaves no fault. -/
theorem Effect.bodyFault_cases {i : Instr} {s : State} {b : Block} {ok : Bool} {data : BitVec 16} (hs : s.err = none)
    (h : Effect i s b ok data) :
    (∃ f, bodyFault i s.toBlock = some f ∧ s.answered b ok data = faultTaken s f) ∨
    (bodyFault i s.toBlock = none ∧ b.err = none) := by
  by_cases hi : i = .resolve
  · subst hi
    rcases h with ⟨hc, rfl, rfl, rfl⟩ | ⟨hc, o, ho, rfl, -, -⟩ | ⟨hc, ho, rfl, rfl, rfl⟩
    · exact .inl ⟨.malformedRecord, by simp [bodyFault, hc], answered_faulted s _⟩
    · exact .inr ⟨by simp [bodyFault, hc, ho], hs⟩
    · exact .inl ⟨.unknownEndianness, by simp [bodyFault, hc, ho], answered_faulted s _⟩
  · refine .inr ⟨bodyFault_of_ne _ hi, ?_⟩
    cases i with
    | resolve => exact absurd rfl hi
    | setmode mode =>
      obtain ⟨m, -, rfl, -, -⟩ := h
      exact hs
    | rds sel =>
      obtain ⟨-, rfl, -⟩ := h
      exact hs
    | nop | rst | ldw _ | rdw _ | rdr _ | pwb _ | rdt _ | hash | rdd _ =>
      obtain ⟨rfl, -, -⟩ := h
      simp [hs]

/-- Everything a word can do when no fault stands: take the fault `wordFault` names, or leave no fault. -/
theorem command_noFault_cases (c : CmdWord) {s : State} (hs : s.err = none) :
    (∃ f, wordFault c s.toBlock = some f ∧ command c s = .next (faultTaken s f)) ∨
    (wordFault c s.toBlock = none ∧ ∃ t, command c s = .next t ∧ t.err = none) := by
  rcases command_cases c s with ⟨i, hd, hx⟩ | ⟨hd, -, hx⟩ | ⟨-, hne, -⟩
  · rw [wordFault_of_decode _ hd, hx]
    rcases exec_cases (wf_of_decode hd) s with ⟨hne, -, -⟩ | ⟨-, hp, hr⟩ | ⟨ha, b, ok, data, he, hr⟩
    · exact absurd hs hne
    · exact .inl ⟨.sequenceError, if_pos hp, hr⟩
    · have hp : ¬ precondition i s.toBlock = false := by simpa [Admitted, hs] using ha
      rw [if_neg hp, hr]
      rcases he.bodyFault_cases hs with ⟨f, hf, hb⟩ | ⟨hf, hb⟩
      · exact .inl ⟨f, hf, by rw [hb]⟩
      · exact .inr ⟨hf, _, rfl, hb⟩
  · exact .inl ⟨.illegalCommand, wordFault_of_illegal _ hd, hx⟩
  · exact absurd hs hne

/-- The fault recorded after a word is the one it raises. -/
theorem err_of_command {c : CmdWord} {s t : State} (hs : s.err = none) (h : command c s = .next t) :
    t.err = wordFault c s.toBlock := by
  rcases command_noFault_cases c hs with ⟨f, hf, hx⟩ | ⟨hf, u, hx, hu⟩
  · cases hx.symm.trans h
    exact hf.symm
  · cases hx.symm.trans h
    exact hu.trans hf.symm

/-- Settles O50: by `command_noFault_cases` the only state with a fault recorded is the fault entry's. -/
theorem faultsArePrecise : Obligations.FaultsArePrecise := by
  intro s t f c rest hs hin hstep ht
  rw [step_command hin] at hstep
  rcases command_noFault_cases c (s := { s with inputs := rest }) hs with ⟨g, -, hx⟩ | ⟨-, u, hx, hu⟩
  · cases hx.symm.trans hstep
    obtain rfl : g = f := Option.some.inj ht
    rfl
  · cases hx.symm.trans hstep
    simp [hu] at ht

/-! ## The cause of each fault (R201 to R204) -/

/-- The commands whose sequence check fails, as the table of R204 lists them. -/
theorem precondition_eq_false_iff (i : Instr) (b : Block) : precondition i b = false ↔
    ((∃ m, i = .setmode m) ∨ (∃ w, i = .ldw w) ∨ i = .resolve) ∧ b.endn ≠ .none ∨
    (∃ idx, i = .rdw idx ∧ ¬ idx.toNat < min b.wcnt.toNat 256) ∨
    ((∃ idx, i = .rdr idx) ∨ i = .hash) ∧ b.endn ≠ .native ∧ b.endn ≠ .swapped ∨
    ((∃ x, i = .pwb x) ∨ i = .hash) ∧ b.dvalid = true ∨
    (∃ idx, i = .rdd idx) ∧ b.dvalid = false := by
  have hresolved : b.resolved = false ↔ b.endn ≠ .native ∧ b.endn ≠ .swapped := by
    rw [← Bool.not_eq_true, Block.resolved_iff, not_or]
  have hloaded (idx : BitVec 8) : b.loaded idx = false ↔ ¬ idx.toNat < min b.wcnt.toNat 256 := by
    rw [← Bool.not_eq_true, Block.loaded_iff]
  cases i with
  | nop | rst | rds _ | rdt _ => simp [precondition]
  | setmode _ | ldw _ | resolve => simp [precondition]
  | rdw idx => simpa [precondition] using hloaded idx
  | rdr _ => simpa [precondition] using hresolved
  | pwb _ | rdd _ => simp [precondition]
  | hash =>
    rw [precondition, Bool.and_eq_false_iff, hresolved, Bool.not_eq_false']
    simp

theorem probeUsable_eq_false_iff (v : Byte) (w : IdWord) :
    probeUsable v w = false ↔ (highByte w = v ↔ lowByte w = v) := by
  rw [probeUsable, bne_eq_false_iff_eq, Bool.eq_iff_iff, beq_iff_eq, beq_iff_eq]
  exact Iff.comm

/-- Detection decides for no order when neither probe is conclusive (R119). -/
theorem detectOrder_eq_none_iff (raw : Vector IdWord 256) : detectOrder raw = none ↔
    probeUsable Config.probe1Val raw[47] = false ∧ probeUsable Config.probe2Val raw[255] = false := by
  unfold detectOrder
  split_ifs with h1 _ h2
  · simp [h1]
  · simp [h1]
  · simp [h2]
  · simp [h2]
  · simp [h1, h2]

/-- No order is fixed in mode `detect` with both probes inconclusive, and in no other case (R115, R116, R119). -/
theorem Block.orderToFix_eq_none_iff (b : Block) : b.orderToFix = none ↔ b.mode = .detect ∧
    (b.raw[47].extractLsb' 8 8 = 0x80#8 ↔ b.raw[47].extractLsb' 0 8 = 0x80#8) ∧
    (b.raw[255].extractLsb' 8 8 = 0xA5#8 ↔ b.raw[255].extractLsb' 0 8 = 0xA5#8) := by
  have hdetect := detectOrder_eq_none_iff b.raw
  rw [probeUsable_eq_false_iff, probeUsable_eq_false_iff] at hdetect
  cases hm : b.mode with
  | detect =>
    rw [Block.orderToFix, hm]
    exact hdetect.trans (and_iff_right rfl).symm
  | native | reverse => simp [Block.orderToFix, hm]

theorem bodyFault_eq_malformedRecord_iff (i : Instr) (b : Block) :
    bodyFault i b = some .malformedRecord ↔ i = .resolve ∧ b.wcnt ≠ 256#9 := by
  unfold bodyFault
  split_ifs with hi hc ho
  · simp [hi]
  · simp [not_not.1 hi, hc]
  · simp [not_not.1 hc]
  · simp [not_not.1 hc]

theorem bodyFault_eq_unknownEndianness_iff (i : Instr) (b : Block) :
    bodyFault i b = some .unknownEndianness ↔ i = .resolve ∧ b.wcnt = 256#9 ∧ b.orderToFix = none := by
  unfold bodyFault
  split_ifs with hi hc ho
  · simp [hi]
  · simp [hc]
  · simp [not_not.1 hi, not_not.1 hc, ho]
  · simp [ho]

/-- The faults of stages 1 and 3 are none of stage 4's. -/
theorem bodyFault_ne (i : Instr) (b : Block) :
    bodyFault i b ≠ some .illegalCommand ∧ bodyFault i b ≠ some .sequenceError := by
  unfold bodyFault
  split_ifs <;> simp

theorem wordFault_eq_illegalCommand_iff (c : CmdWord) (b : Block) :
    wordFault c b = some .illegalCommand ↔ decode c = none := by
  cases hd : decode c with
  | none => simp [wordFault_of_illegal b hd]
  | some i =>
    rw [wordFault_of_decode b hd]
    split <;> simp [(bodyFault_ne i b).1]

theorem wordFault_eq_sequenceError_iff (c : CmdWord) (b : Block) :
    wordFault c b = some .sequenceError ↔ ∃ i, decode c = some i ∧ precondition i b = false := by
  cases hd : decode c with
  | none => simp [wordFault_of_illegal b hd]
  | some i =>
    rw [wordFault_of_decode b hd]
    split <;> simp [(bodyFault_ne i b).2, *]

/-- A fault of neither stage 1 nor stage 3 is raised by stage 4 of a command that passes its sequence check. -/
theorem wordFault_eq_some_iff_bodyFault {f : FaultKind} (hill : f ≠ .illegalCommand) (hseq : f ≠ .sequenceError)
    (c : CmdWord) (b : Block) : wordFault c b = some f ↔
      ∃ i, decode c = some i ∧ precondition i b = true ∧ bodyFault i b = some f := by
  cases hd : decode c with
  | none => simp [wordFault_of_illegal b hd, hill.symm]
  | some i =>
    rw [wordFault_of_decode b hd]
    split <;> simp [hseq.symm, *]

theorem wordFault_eq_malformedRecord_iff (c : CmdWord) (b : Block) :
    wordFault c b = some .malformedRecord ↔ decode c = some .resolve ∧ b.endn = .none ∧ b.wcnt ≠ 256#9 := by
  rw [wordFault_eq_some_iff_bodyFault (by decide) (by decide)]
  simp only [bodyFault_eq_malformedRecord_iff]
  constructor
  · rintro ⟨_, hd, hp, rfl, hc⟩
    exact ⟨hd, beq_iff_eq.1 hp, hc⟩
  · rintro ⟨hd, hend, hc⟩
    exact ⟨_, hd, beq_iff_eq.2 hend, rfl, hc⟩

theorem wordFault_eq_unknownEndianness_iff (c : CmdWord) (b : Block) :
    wordFault c b = some .unknownEndianness ↔
      decode c = some .resolve ∧ b.endn = .none ∧ b.wcnt = 256#9 ∧ b.orderToFix = none := by
  rw [wordFault_eq_some_iff_bodyFault (by decide) (by decide)]
  simp only [bodyFault_eq_unknownEndianness_iff]
  constructor
  · rintro ⟨_, hd, hp, rfl, hc, ho⟩
    exact ⟨hd, beq_iff_eq.1 hp, hc, ho⟩
  · rintro ⟨hd, hend, hc, ho⟩
    exact ⟨_, hd, beq_iff_eq.2 hend, rfl, hc, ho⟩

/-- Settles O51: the fault recorded is `wordFault`, whose four values have the four causes. -/
theorem faultCauses : Obligations.FaultCauses := by
  intro s t c rest hs hin hstep
  rw [step_command hin] at hstep
  have ht : t.err = wordFault c s.toBlock := err_of_command (s := { s with inputs := rest }) hs hstep
  rw [ht]
  refine ⟨wordFault_eq_illegalCommand_iff c _, ?_, wordFault_eq_malformedRecord_iff c _, ?_⟩
  · simp only [wordFault_eq_sequenceError_iff, precondition_eq_false_iff]
  · rw [wordFault_eq_unknownEndianness_iff, Block.orderToFix_eq_none_iff]

end Sys2Proof.Machine
end

section
/-!
The statements about the whole machine and what is left of its parts: the encoding, what every step keeps (R38 to R40, R215),
runs of `LDW` and of `PWB`, detection and the byte-swapped copy (R117 to R120), and SHA-256 (R185 to R190).
-/

namespace Sys2Proof.Machine

open Sys2Proof.Safety

/-! ## The encoding (R72, R74, R78) -/

/-- Settles O1: the twelve words are encodings of well-formed commands; each of the four others breaks one item of R74. -/
theorem writtenWordsDecode : Obligations.WrittenWordsDecode := by
  unfold Obligations.WrittenWordsDecode
  decide

/-- Settles O2: `decode_encode`. -/
theorem decodeOfEncode : Obligations.DecodeOfEncode := fun _ hw => decode_encode hw

/-- Settles O3: `wf_of_decode` and `encode_of_decode`. -/
theorem encodeOfDecode : Obligations.EncodeOfDecode := fun _ _ h => ⟨wf_of_decode h, encode_of_decode h⟩

/-! ## The three kinds of step (R61, R90, R230, R232) -/

/-- Settles O5: `step_command`, then the decoded command. -/
theorem stepRunsDecodedCommand : Obligations.StepRunsDecodedCommand := fun _ _ _ _ hin hd =>
  (step_command hin).trans (command_of_decode hd _)

/-- Settles O7: `step_idle`. -/
theorem idleBlockHoldsItsState : Obligations.IdleBlockHoldsItsState := fun _ h => step_idle h

/-- Settles O10: an idle step and a reset answer at once, and an accepted word ends as `command_ending` says. -/
theorem everyStepCompletes : Obligations.EveryStepCompletes := by
  intro s
  rcases step_cases s with ⟨-, hx⟩ | ⟨c, rest, -, hx⟩ | ⟨rest, -, hx⟩
  · exact ⟨s, hx⟩
  · obtain ⟨b, ok, data, hend, -⟩ := command_ending c { s with inputs := rest }
    exact ⟨_, hx.trans hend⟩
  · exact ⟨_, hx⟩

/-! ## What a step does to the block -/

/-- Everything an accepted word can end in: a refusal, a fault of stage 1 or 3, or the effect of the command it decodes
to. -/
theorem command_endings {c : CmdWord} {s t : State} (h : command c s = .next t) :
    (s.err ≠ none ∧ t = s.answered s.toBlock false 0#16) ∨
    (∃ f, s.err = none ∧ (f = .illegalCommand ∨ f = .sequenceError) ∧
      t = s.answered (s.toBlock.faulted f) false 0#16) ∨
    (∃ i b ok data, decode c = some i ∧ Admitted i s.toBlock ∧ Effect i s b ok data ∧ t = s.answered b ok data) := by
  rcases command_cases c s with ⟨i, hd, hx⟩ | ⟨-, hs, hx⟩ | ⟨-, hs, hx⟩
  · rw [hx] at h
    rcases exec_cases (wf_of_decode hd) s with ⟨hs, -, hr⟩ | ⟨hs, -, hr⟩ | ⟨ha, b, ok, data, he, hr⟩
    · cases hr.symm.trans h
      exact .inl ⟨hs, rfl⟩
    · cases hr.symm.trans h
      exact .inr (.inl ⟨_, hs, .inr rfl, rfl⟩)
    · cases hr.symm.trans h
      exact .inr (.inr ⟨i, b, ok, data, hd, ha, he, rfl⟩)
  · cases hx.symm.trans h
    exact .inr (.inl ⟨_, hs, .inl rfl, rfl⟩)
  · cases hx.symm.trans h
    exact .inl ⟨hs, rfl⟩

/-- A predicate of the block that a reset establishes, and that the faults of stages 1 and 3 and every admitted effect
keep, is kept by every step. -/
theorem step_keeps_block {P : Block → Prop} (hreset : ∀ b : Block, P b.cleared)
    (hfault : ∀ b f, b.err = none → f = .illegalCommand ∨ f = .sequenceError → P b → P (b.faulted f))
    (heffect : ∀ i s b ok data, Admitted i s.toBlock → Effect i s b ok data → P s.toBlock → P b)
    {s t : State} (hs : P s.toBlock) (h : step s = .next t) : P t.toBlock := by
  rcases step_cases s with ⟨-, hx⟩ | ⟨c, rest, -, hx⟩ | ⟨rest, -, hx⟩
  · cases hx.symm.trans h
    exact hs
  · rcases command_endings (hx.symm.trans h) with ⟨-, rfl⟩ | ⟨f, herr, hf, rfl⟩ | ⟨i, b, ok, data, -, ha, he, rfl⟩
    · exact hs
    · exact hfault _ f herr hf hs
    · exact heffect i _ b ok data ha he hs
  · cases hx.symm.trans h
    exact hreset _

end Sys2Proof.Machine

namespace Sys2Proof.Safety

open Sys2Proof.Machine

/-! ## The invariants of R40 -/

/-- A block in reset meets the invariants (R39, R93). -/
theorem reachable_cleared (b : Block) : Reachable b.cleared := by
  constructor <;> simp [Mode.bits, errCode]

/-- While no fault stands, `END` is not `UNKNOWN` (R40 item 4). -/
theorem Reachable.endn_ne_unknown {b : Block} (h : Reachable b) (hs : b.err = none) : b.endn ≠ .unknown := by
  intro hu
  have hf := h.unknownFault.1 hu
  simp [hs] at hf

/-- A digest is valid on a resolved record only (R40 item 5). -/
theorem Reachable.dvalid_of_endn_none {b : Block} (h : Reachable b) (hend : b.endn = .none) : b.dvalid = false := by
  by_contra hd
  have hr := h.digestResolved (Bool.not_eq_false _ ▸ hd)
  simp [hend] at hr

theorem mode_bits_le (m : Mode) : m.bits.toNat ≤ 2 := by cases m <;> decide

theorem errCode_le (e : Option FaultKind) : (errCode e).toNat ≤ 4 := by
  rcases e with _ | f
  · decide
  · cases f <;> decide

/-- Fault entry keeps the invariants, when the two faults of `RESOLVE` are taken where `RESOLVE` takes them (R208). -/
theorem Reachable.faulted {b : Block} {f : FaultKind} (h : Reachable b) (hs : b.err = none)
    (hu : f = .unknownEndianness → b.endn = .none) (hm : f = .malformedRecord → b.endn = .none ∧ b.wcnt ≠ 256#9) :
    Reachable (b.faulted f) := by
  obtain ⟨hw, hp, -, -⟩ := h.bounds
  refine ⟨⟨hw, hp, mode_bits_le _, errCode_le _⟩, h.padding, ?_, ?_, ?_, h.zeroValid, h.truncFull, ?_⟩
  · rw [Block.faulted_endn]
    split_ifs
    · simp
    · exact h.resolvedCount
  · rw [Block.faulted_endn, Block.faulted_err, Option.some.injEq]
    split_ifs with hf
    · simp [hf]
    · simp [hf, h.endn_ne_unknown hs]
  · rw [Block.faulted_endn, Block.faulted_dvalid]
    split_ifs with hf
    · simp [h.dvalid_of_endn_none (hu hf)]
    · exact h.digestResolved
  · rw [Block.faulted_endn, Block.faulted_err, Option.some.injEq, Block.faulted_wcnt]
    rintro rfl
    exact hm rfl

/-- `SETMODE` keeps the invariants, which say no more of `MODE` than its type. -/
theorem Reachable.withMode {b : Block} (h : Reachable b) (m : Mode) : Reachable { b with mode := m } := by
  obtain ⟨hw, hp, -, he⟩ := h.bounds
  exact ⟨⟨hw, hp, mode_bits_le m, he⟩, h.padding, h.resolvedCount, h.unknownFault, h.digestResolved, h.zeroValid,
    h.truncFull, h.malformedShape⟩

/-- A resolution of a full record keeps the invariants (R113). -/
theorem Reachable.withOrder {b : Block} {o : Order} (h : Reachable b) (hs : b.err = none) (hend : b.endn = .none)
    (hc : b.wcnt = 256#9) (ho : o = .native ∨ o = .swapped) : Reachable { b with endn := o } := by
  have hd := h.dvalid_of_endn_none hend
  refine ⟨h.bounds, h.padding, fun _ => hc, ?_, fun _ => ho, h.zeroValid, h.truncFull, ?_⟩
  · rcases ho with rfl | rfl <;> simp [hs]
  · simp [hs]

/-- `LDW` keeps the invariants (R112). -/
theorem Reachable.loadWord {b : Block} (h : Reachable b) (hs : b.err = none) (hend : b.endn = .none) (w : IdWord) :
    Reachable (b.loadWord w) := by
  have hcount : (b.loadWord w).wcnt.toNat ≤ 257 := by
    have hw := h.bounds.1
    rcases b.loadWord_cases w with ⟨hlt, hx⟩ | ⟨-, hx⟩ | ⟨-, hx⟩ <;> rw [hx]
    · change (b.wcnt + 1#9).toNat ≤ 257
      bv_omega
    · exact le_rfl
    · exact hw
  obtain ⟨-, hp, hm, he⟩ := h.bounds
  constructor
  case bounds => simpa using ⟨hcount, hp, hm, he⟩
  case padding => simpa using h.padding
  case resolvedCount => simp [hend]
  case unknownFault => simp [hend, hs]
  case digestResolved => simp [h.dvalid_of_endn_none hend]
  case zeroValid => simpa using h.zeroValid
  case truncFull => simpa using h.truncFull
  case malformedShape => simp [hs]

/-- What `PWB` leaves of `TP` and its length: the padding invariant (R30), `TRUNC` with a full `TP` only (R31). -/
theorem Reachable.pushByte {b : Block} (h : Reachable b) (d : DigitOrder) (x : Byte) : Reachable (b.pushByte d x) := by
  rcases b.pushByte_cases d x with ⟨-, hx⟩ | ⟨v, hv, hlt, hx⟩ | ⟨v, hv, hge, hx⟩ <;> rw [hx]
  · exact h
  · have hlen : (b.plen + 1#7).toNat = b.plen.toNat + 1 := by bv_omega
    obtain ⟨hw, -, hm, he⟩ := h.bounds
    refine ⟨⟨hw, ?_, hm, he⟩, fun i => ?_, h.resolvedCount, h.unknownFault, h.digestResolved, h.zeroValid, ?_,
      h.malformedShape⟩
    · bv_omega
    · simp only [hlen, Fin.getElem_fin, Vector.getElem_setIfInBounds]
      split_ifs with hi
      · exact ⟨fun _ => mem_alphabetValues_of_xlat hv, by omega⟩
      · exact ⟨fun hl => (h.padding i).1 (by omega), fun hl => (h.padding i).2 (by omega)⟩
    · intro ht
      have hfull : b.plen = 64#7 := h.truncFull ht
      simp [hfull] at hlt
  · refine ⟨h.bounds, h.padding, h.resolvedCount, h.unknownFault, h.digestResolved, h.zeroValid, fun _ => ?_,
      h.malformedShape⟩
    have hp := h.bounds.2.1
    bv_omega

/-- `HASH` of a resolved record keeps the invariants (R166). -/
theorem Reachable.storeDigest {b : Block} (h : Reachable b) (hend : b.endn = .native ∨ b.endn = .swapped)
    (d : Vector Byte 32) : Reachable (b.storeDigest d) :=
  ⟨h.bounds, h.padding, h.resolvedCount, h.unknownFault, fun _ => hend, fun _ => rfl, h.truncFull, h.malformedShape⟩

/-- The faults of stages 1 and 3 keep the invariants. -/
theorem Reachable.faulted_early {b : Block} {f : FaultKind} (h : Reachable b) (hs : b.err = none)
    (hf : f = .illegalCommand ∨ f = .sequenceError) : Reachable (b.faulted f) := by
  rcases hf with rfl | rfl <;> exact h.faulted hs (by simp) (by simp)

end Sys2Proof.Safety

namespace Sys2Proof.Machine

open Sys2Proof.Safety

/-- Settles O44: `State.reset` is a cleared block. -/
theorem reachableAtReset : Obligations.ReachableAtReset := reachable_cleared State.reset.toBlock

/-- A command the fault state does not permit runs without a fault, with its precondition met (R90). -/
theorem Admitted.of_not_permitted {i : Instr} {b : Block} (h : Admitted i b) (hp : permittedInFault i b = false) :
    b.err = none ∧ precondition i b = true := by
  rcases h with h | ⟨-, hp'⟩
  · exact h
  · simp [hp] at hp'

/-- Every effect of an admitted command keeps the invariants. -/
theorem Effect.reachable {i : Instr} {s : State} {b : Block} {ok : Bool} {data : BitVec 16}
    (ha : Admitted i s.toBlock) (h : Effect i s b ok data) (hr : Reachable s.toBlock) : Reachable b := by
  cases i with
  | rst =>
    obtain ⟨rfl, -, -⟩ := h
    exact reachable_cleared _
  | setmode mode =>
    obtain ⟨m, -, rfl, -, -⟩ := h
    exact hr.withMode m
  | ldw w =>
    obtain ⟨hs, hp⟩ := ha.of_not_permitted rfl
    obtain ⟨rfl, -, -⟩ := h
    exact hr.loadWord hs (beq_iff_eq.1 hp) w
  | resolve =>
    obtain ⟨hs, hp⟩ := ha.of_not_permitted rfl
    have hend : s.endn = .none := beq_iff_eq.1 hp
    rcases h with ⟨hc, rfl, -, -⟩ | ⟨hc, o, ho, rfl, -, -⟩ | ⟨-, -, rfl, -, -⟩
    · exact hr.faulted hs (by simp) fun _ => ⟨hend, hc⟩
    · exact hr.withOrder hs hend hc (Block.orderToFix_resolves ho)
    · exact hr.faulted hs (fun _ => hend) (by simp)
  | pwb x =>
    obtain ⟨rfl, -, -⟩ := h
    exact hr.pushByte _ x
  | hash =>
    obtain ⟨hs, hp⟩ := ha.of_not_permitted rfl
    obtain ⟨-, hend, -⟩ := (precondition_hash_iff hs).1 hp
    obtain ⟨rfl, -, -⟩ := h
    exact hr.storeDigest hend _
  | rds _ =>
    obtain ⟨-, rfl, -⟩ := h
    exact hr
  | nop | rdw _ | rdr _ | rdt _ | rdd _ =>
    obtain ⟨rfl, -, -⟩ := h
    exact hr

/-- Settles O45: a reset, a fault and every effect keep the invariants. -/
theorem reachableKeptByEveryStep : Obligations.ReachableKeptByEveryStep := fun _ _ =>
  step_keeps_block reachable_cleared (fun _ _ hs hf h => h.faulted_early hs hf)
    (fun _ _ _ _ _ ha he h => he.reachable ha h)

end Sys2Proof.Machine

namespace Sys2Proof.Machine

open Sys2Proof.Safety

/-! ## A valid digest stays current (R166, R167, R242) -/

/-- A valid digest is the digest of the password and the record the block holds now, with its zero-byte flag. -/
def DigestCurrent (b : Block) : Prop :=
  b.dvalid = true → b.digest = b.digestOf ∧ (b.zbyte = true ↔ 0x00#8 ∈ b.digest.toList)

theorem DigestCurrent.of_dvalid {b : Block} (h : b.dvalid = false) : DigestCurrent b := by
  intro hd
  simp [h] at hd

theorem digestCurrent_storeDigest (b : Block) : DigestCurrent (b.storeDigest b.digestOf) :=
  fun _ => ⟨rfl, List.contains_iff_mem⟩

/-- A fault that does not write `END` keeps the digest current. -/
theorem DigestCurrent.faulted {b : Block} {f : FaultKind} (h : DigestCurrent b) (hf : f ≠ .unknownEndianness) :
    DigestCurrent (b.faulted f) := by
  rw [Block.faulted, if_neg hf]
  exact h

/-- Every effect of an admitted command keeps the digest current: what the digest depends on is written only while there
is no valid digest. -/
theorem Effect.digestCurrent {i : Instr} {s : State} {b : Block} {ok : Bool} {data : BitVec 16}
    (ha : Admitted i s.toBlock) (h : Effect i s b ok data) (hr : Reachable s.toBlock) (hd : DigestCurrent s.toBlock) :
    DigestCurrent b := by
  cases i with
  | rst =>
    obtain ⟨rfl, -, -⟩ := h
    exact .of_dvalid rfl
  | setmode mode =>
    obtain ⟨m, -, rfl, -, -⟩ := h
    exact hd
  | ldw w =>
    obtain ⟨-, hp⟩ := ha.of_not_permitted rfl
    obtain ⟨rfl, -, -⟩ := h
    exact .of_dvalid (by rw [Block.loadWord_dvalid, hr.dvalid_of_endn_none (beq_iff_eq.1 hp)])
  | resolve =>
    have hv := hr.dvalid_of_endn_none ha.endn_of_resolve
    rcases h with ⟨-, rfl, -, -⟩ | ⟨-, o, -, rfl, -, -⟩ | ⟨-, -, rfl, -, -⟩
    · exact .of_dvalid hv
    · exact .of_dvalid hv
    · exact .of_dvalid hv
  | pwb x =>
    obtain ⟨-, hp⟩ := ha.of_not_permitted rfl
    obtain ⟨rfl, -, -⟩ := h
    have hv : s.dvalid = false := by simpa [precondition] using hp
    exact .of_dvalid (by rw [Block.pushByte_dvalid, hv])
  | hash =>
    obtain ⟨rfl, -, -⟩ := h
    exact digestCurrent_storeDigest _
  | rds _ =>
    obtain ⟨-, rfl, -⟩ := h
    exact hd
  | nop | rdw _ | rdr _ | rdt _ | rdd _ =>
    obtain ⟨rfl, -, -⟩ := h
    exact hd

/-- Settles O46: together with the invariants of R40, that the digest is current is kept by every step. -/
theorem validDigestStaysCurrent : Obligations.ValidDigestStaysCurrent := by
  intro s t hr hd h
  have hkept : Reachable t.toBlock ∧ DigestCurrent t.toBlock := by
    refine step_keeps_block (P := fun b => Reachable b ∧ DigestCurrent b) (fun b => ⟨reachable_cleared b, .of_dvalid rfl⟩)
      (fun b f hs hf hb => ⟨hb.1.faulted_early hs hf, hb.2.faulted ?_⟩)
      (fun i s b ok data ha he hs => ⟨he.reachable ha hs.1, he.digestCurrent ha hs.1 hs.2⟩) ⟨hr, hd⟩ h
    rcases hf with rfl | rfl <;> decide
  exact hkept.2

/-! ## Two runs of one word -/

/-- What one word does in two states whose pipeline checks agree (R90): both refuse it, both take the same fault of stage 1
or 3, or both reach stage 4 of one command. -/
theorem command_pair_endings {c : CmdWord} {s u t v : State} (herr : s.err = u.err)
    (hperm : ∀ i, permittedInFault i s.toBlock = permittedInFault i u.toBlock)
    (hpre : ∀ i, precondition i s.toBlock = precondition i u.toBlock)
    (ht : command c s = .next t) (hv : command c u = .next v) :
    (t = s.answered s.toBlock false 0#16 ∧ v = u.answered u.toBlock false 0#16) ∨
    (∃ f, (f = .illegalCommand ∨ f = .sequenceError) ∧ t = s.answered (s.toBlock.faulted f) false 0#16 ∧
      v = u.answered (u.toBlock.faulted f) false 0#16) ∨
    (∃ i b ok data b' ok' data', decode c = some i ∧ Admitted i s.toBlock ∧
      Effect i s b ok data ∧ t = s.answered b ok data ∧ Effect i u b' ok' data' ∧ v = u.answered b' ok' data') := by
  cases hd : decode c with
  | none =>
    rw [command_of_illegal hd] at ht hv
    by_cases hs : s.err = none
    · rw [illegalWord_noFault hs, raise_eq] at ht
      rw [illegalWord_noFault (herr.symm.trans hs), raise_eq] at hv
      cases ht
      cases hv
      exact .inr (.inl ⟨_, .inl rfl, rfl, rfl⟩)
    · rw [illegalWord_inFault hs, refuse_eq] at ht
      rw [illegalWord_inFault (herr ▸ hs), refuse_eq] at hv
      cases ht
      cases hv
      exact .inl ⟨rfl, rfl⟩
  | some i =>
    rw [command_of_decode hd] at ht hv
    obtain ⟨b, ok, data, he, hx⟩ := exec_eq_runChecked (wf_of_decode hd) s
    obtain ⟨b', ok', data', he', hx'⟩ := exec_eq_runChecked (wf_of_decode hd) u
    rw [hx] at ht
    rw [hx'] at hv
    rcases runChecked_cases i s (answer s b ok data) with ⟨hs, hp, hr⟩ | ⟨hs, hp, hr⟩ | ⟨ha, hr⟩ <;> rw [hr] at ht
    · rw [runChecked_refused (herr ▸ hs) (hperm i ▸ hp)] at hv
      cases ht
      cases hv
      exact .inl ⟨rfl, rfl⟩
    · rw [runChecked_sequenceError (herr ▸ hs) (hpre i ▸ hp)] at hv
      cases ht
      cases hv
      exact .inr (.inl ⟨_, .inr rfl, rfl, rfl⟩)
    · have ha' : Admitted i u.toBlock := by simpa only [Admitted, herr, hperm, hpre] using ha
      rw [runChecked_admitted ha'] at hv
      cases ht
      cases hv
      exact .inr (.inr ⟨i, b, ok, data, b', ok', data', rfl, ha, he, rfl, he', rfl⟩)

end Sys2Proof.Machine

namespace Sys2Proof.Safety

open Sys2Proof.Machine

/-! ## What cannot be told apart (R39) -/

variable {b c : Block}

/-- With a full record the two blocks hold the same words. -/
theorem Indistinguishable.raw_eq (h : Indistinguishable b c) (hc : b.wcnt = 256#9) : b.raw = c.raw := by
  refine Vector.ext fun i hi => h.loadedWords ⟨i, hi⟩ ?_
  rw [hc]
  exact lt_min hi hi

theorem Indistinguishable.loaded_eq (h : Indistinguishable b c) (idx : BitVec 8) : b.loaded idx = c.loaded idx := by
  rw [Block.loaded, Block.loaded, h.wcnt]

theorem Indistinguishable.resolved_eq (h : Indistinguishable b c) : b.resolved = c.resolved := by
  rw [Block.resolved, Block.resolved, h.endn]

/-- The pipeline checks read nothing in which the two blocks differ (R97, R204). -/
theorem Indistinguishable.permittedInFault_eq (h : Indistinguishable b c) (i : Instr) :
    permittedInFault i b = permittedInFault i c := by
  cases i with
  | rdw idx => exact h.loaded_eq idx
  | nop | rst | setmode _ | rds _ | ldw _ | resolve | rdr _ | pwb _ | rdt _ | hash | rdd _ => rfl

theorem Indistinguishable.precondition_eq (h : Indistinguishable b c) (i : Instr) :
    precondition i b = precondition i c := by
  cases i with
  | rdw idx => exact h.loaded_eq idx
  | setmode _ | ldw _ | resolve => simp only [precondition, h.endn]
  | rdr _ => exact h.resolved_eq
  | pwb _ | rdd _ => simp only [precondition, h.dvalid]
  | hash => simp only [precondition, h.resolved_eq, h.dvalid]
  | nop | rst | rds _ | rdt _ => rfl

theorem Indistinguishable.status?_eq (h : Indistinguishable b c) (sel : BitVec 2) : b.status? sel = c.status? sel := by
  simp only [Block.status?, Block.flags, h.mode, h.endn, h.dvalid, h.zbyte, h.trunc, h.wcnt, h.plen]

/-- A reset forgets the words loaded and invalidates the digest. -/
theorem Indistinguishable.cleared (b c : Block) : Indistinguishable b.cleared c.cleared := by
  constructor <;> simp

theorem Indistinguishable.faulted (h : Indistinguishable b c) (f : FaultKind) :
    Indistinguishable (b.faulted f) (c.faulted f) :=
  ⟨h.wcnt, h.mode, by simp only [Block.faulted_endn, h.endn], h.tp, h.plen, h.trunc, h.dvalid, h.zbyte, rfl,
    h.loadedWords, h.validDigest⟩

theorem Indistinguishable.withMode (h : Indistinguishable b c) (m : Mode) :
    Indistinguishable { b with mode := m } { c with mode := m } :=
  ⟨h.wcnt, rfl, h.endn, h.tp, h.plen, h.trunc, h.dvalid, h.zbyte, h.err, h.loadedWords, h.validDigest⟩

theorem Indistinguishable.withOrder (h : Indistinguishable b c) (o : Order) :
    Indistinguishable { b with endn := o } { c with endn := o } :=
  ⟨h.wcnt, h.mode, rfl, h.tp, h.plen, h.trunc, h.dvalid, h.zbyte, h.err, h.loadedWords, h.validDigest⟩

theorem Indistinguishable.storeDigest (h : Indistinguishable b c) (d : Vector Byte 32) :
    Indistinguishable (b.storeDigest d) (c.storeDigest d) :=
  ⟨h.wcnt, h.mode, h.endn, h.tp, h.plen, h.trunc, rfl, rfl, h.err, h.loadedWords, fun _ => rfl⟩

/-- The word `LDW` loads is the same in both blocks (R112). -/
theorem Indistinguishable.loadWord (h : Indistinguishable b c) (w : IdWord) :
    Indistinguishable (b.loadWord w) (c.loadWord w) := by
  have hw := h.wcnt
  rcases lt_trichotomy b.wcnt.toNat 256 with hlt | heq | hgt
  · rw [Block.loadWord_of_lt w hlt, Block.loadWord_of_lt w (hw ▸ hlt)]
    refine ⟨by rw [hw], h.mode, h.endn, h.tp, h.plen, h.trunc, h.dvalid, h.zbyte, h.err, fun i hi => ?_, h.validDigest⟩
    have hcount : (b.wcnt + 1#9).toNat = b.wcnt.toNat + 1 := by bv_omega
    simp only [Fin.getElem_fin, Vector.getElem_setIfInBounds, ← hw]
    split_ifs with hi'
    · rfl
    · exact h.loadedWords i (by simp only [hcount] at hi; omega)
  · have hraw := h.raw_eq (by bv_omega)
    rw [Block.loadWord_of_eq w heq, Block.loadWord_of_eq w (hw ▸ heq)]
    exact ⟨rfl, h.mode, h.endn, h.tp, h.plen, h.trunc, h.dvalid, h.zbyte, h.err, fun i _ => congrArg (·[i]) hraw,
      h.validDigest⟩
  · rwa [Block.loadWord_of_gt w hgt, Block.loadWord_of_gt w (hw ▸ hgt)]

theorem Indistinguishable.pushByte (h : Indistinguishable b c) (d : DigitOrder) (x : Byte) :
    Indistinguishable (b.pushByte d x) (c.pushByte d x) := by
  cases hv : mapByte d x with
  | none => rwa [Block.pushByte_of_none hv, Block.pushByte_of_none hv]
  | some v =>
    rcases lt_or_ge b.plen.toNat 64 with hlt | hge
    · rw [Block.pushByte_of_lt hv hlt, Block.pushByte_of_lt hv (h.plen ▸ hlt)]
      exact ⟨h.wcnt, h.mode, h.endn, by rw [h.tp, h.plen], by rw [h.plen], h.trunc, h.dvalid, h.zbyte, h.err,
        h.loadedWords, h.validDigest⟩
    · rw [Block.pushByte_of_ge hv hge, Block.pushByte_of_ge hv (h.plen ▸ hge)]
      exact ⟨h.wcnt, h.mode, h.endn, h.tp, h.plen, rfl, h.dvalid, h.zbyte, h.err, h.loadedWords, h.validDigest⟩

/-- The order `RESOLVE` fixes for a full record is the same in both blocks. -/
theorem Indistinguishable.orderToFix_eq (h : Indistinguishable b c) (hc : b.wcnt = 256#9) :
    b.orderToFix = c.orderToFix := by
  simp only [Block.orderToFix, h.mode, h.raw_eq hc]

theorem Indistinguishable.res_eq (h : Indistinguishable b c) (hc : b.wcnt = 256#9) : b.res = c.res := by
  funext i
  rw [Block.res, Block.res, h.endn, h.raw_eq hc]

theorem Indistinguishable.digestOf_eq (h : Indistinguishable b c) (hc : b.wcnt = 256#9) : b.digestOf = c.digestOf := by
  simp only [Block.digestOf, Block.secondMessage, Block.firstHash, Block.fields, h.tp, h.res_eq hc]

end Sys2Proof.Safety

namespace Sys2Proof.Machine

open Sys2Proof.Safety

/-- The three ends of `RESOLVE`, each under its condition (R113, R114, R119). -/
theorem Effect.resolve_miscounted {s : State} {b : Block} {ok : Bool} {data : BitVec 16} (h : Effect .resolve s b ok data)
    (hc : s.wcnt ≠ 256#9) : b = s.toBlock.faulted .malformedRecord ∧ ok = false ∧ data = 0#16 := by
  simpa [Effect, hc] using h

theorem Effect.resolve_run {s : State} {b : Block} {ok : Bool} {data : BitVec 16} {o : Order}
    (h : Effect .resolve s b ok data) (hc : s.wcnt = 256#9) (ho : s.toBlock.orderToFix = some o) :
    b = { s.toBlock with endn := o } ∧ ok = true ∧ data = 0#16 := by
  simpa [Effect, hc, ho] using h

theorem Effect.resolve_inconclusive {s : State} {b : Block} {ok : Bool} {data : BitVec 16}
    (h : Effect .resolve s b ok data) (hc : s.wcnt = 256#9) (ho : s.toBlock.orderToFix = none) :
    b = s.toBlock.faulted .unknownEndianness ∧ ok = false ∧ data = 0#16 := by
  simpa [Effect, hc, ho] using h

/-- An admitted command reads nothing in which two indistinguishable blocks differ, and leaves two such blocks. -/
theorem Effect.indistinguishable {i : Instr} {s u : State} {b c : Block} {ok ok' : Bool} {data data' : BitVec 16}
    (hsu : Indistinguishable s.toBlock u.toBlock) (hr : Reachable s.toBlock) (hcfg : s.cfg = u.cfg)
    (ha : Admitted i s.toBlock) (h : Effect i s b ok data) (h' : Effect i u c ok' data') :
    Indistinguishable b c ∧ ok = ok' ∧ data = data' := by
  cases i with
  | nop =>
    obtain ⟨rfl, rfl, rfl⟩ := h
    obtain ⟨rfl, rfl, rfl⟩ := h'
    exact ⟨hsu, rfl, rfl⟩
  | rst =>
    obtain ⟨rfl, rfl, rfl⟩ := h
    obtain ⟨rfl, rfl, rfl⟩ := h'
    exact ⟨.cleared _ _, rfl, rfl⟩
  | setmode mode =>
    obtain ⟨m, hm, rfl, rfl, rfl⟩ := h
    obtain ⟨m', hm', rfl, rfl, rfl⟩ := h'
    obtain rfl : m = m' := Option.some.inj (hm.symm.trans hm')
    exact ⟨hsu.withMode m, rfl, rfl⟩
  | rds sel =>
    obtain ⟨hd, rfl, rfl⟩ := h
    obtain ⟨hd', rfl, rfl⟩ := h'
    rw [hsu.status?_eq] at hd
    exact ⟨hsu, rfl, Option.some.inj (hd.symm.trans hd')⟩
  | ldw w =>
    obtain ⟨rfl, rfl, rfl⟩ := h
    obtain ⟨rfl, rfl, rfl⟩ := h'
    exact ⟨hsu.loadWord w, rfl, rfl⟩
  | resolve =>
    by_cases hc : s.wcnt = 256#9
    · have hc' : u.wcnt = 256#9 := hsu.wcnt.symm.trans hc
      have ho' := hsu.orderToFix_eq hc
      cases ho : s.toBlock.orderToFix with
      | some o =>
        obtain ⟨rfl, rfl, rfl⟩ := h.resolve_run hc ho
        obtain ⟨rfl, rfl, rfl⟩ := h'.resolve_run hc' (ho'.symm.trans ho)
        exact ⟨hsu.withOrder o, rfl, rfl⟩
      | none =>
        obtain ⟨rfl, rfl, rfl⟩ := h.resolve_inconclusive hc ho
        obtain ⟨rfl, rfl, rfl⟩ := h'.resolve_inconclusive hc' (ho'.symm.trans ho)
        exact ⟨hsu.faulted _, rfl, rfl⟩
    · obtain ⟨rfl, rfl, rfl⟩ := h.resolve_miscounted hc
      obtain ⟨rfl, rfl, rfl⟩ := h'.resolve_miscounted (hsu.wcnt ▸ hc)
      exact ⟨hsu.faulted _, rfl, rfl⟩
  | rdw idx =>
    obtain ⟨rfl, rfl, rfl⟩ := h
    obtain ⟨rfl, rfl, rfl⟩ := h'
    have hl : s.toBlock.loaded idx = true := by
      rcases ha with ⟨-, hp⟩ | ⟨-, hp⟩
      · exact hp
      · exact hp
    exact ⟨hsu, rfl, hsu.loadedWords idx.toFin ((Block.loaded_iff _ _).1 hl)⟩
  | rdr idx =>
    obtain ⟨rfl, rfl, rfl⟩ := h
    obtain ⟨rfl, rfl, rfl⟩ := h'
    obtain ⟨-, hp⟩ := ha.of_not_permitted rfl
    have hc := hr.resolvedCount ((Block.resolved_iff _).1 hp)
    exact ⟨hsu, rfl, congrFun (hsu.res_eq hc) idx.toFin⟩
  | pwb x =>
    obtain ⟨rfl, rfl, rfl⟩ := h
    obtain ⟨rfl, rfl, rfl⟩ := h'
    rw [hcfg]
    exact ⟨hsu.pushByte _ x, rfl, rfl⟩
  | rdt idx =>
    obtain ⟨rfl, rfl, rfl⟩ := h
    obtain ⟨rfl, rfl, rfl⟩ := h'
    exact ⟨hsu, rfl, by rw [Block.tpAt, Block.tpAt, hsu.tp]⟩
  | hash =>
    obtain ⟨hs, hp⟩ := ha.of_not_permitted rfl
    obtain ⟨-, hend, -⟩ := (precondition_hash_iff hs).1 hp
    obtain ⟨rfl, rfl, rfl⟩ := h
    obtain ⟨rfl, rfl, rfl⟩ := h'
    rw [hsu.digestOf_eq (hr.resolvedCount hend)]
    exact ⟨hsu.storeDigest _, rfl, rfl⟩
  | rdd idx =>
    obtain ⟨-, hp⟩ := ha.of_not_permitted rfl
    obtain ⟨rfl, rfl, rfl⟩ := h
    obtain ⟨rfl, rfl, rfl⟩ := h'
    exact ⟨hsu, rfl, by rw [Block.digestAt, Block.digestAt, hsu.validDigest hp]⟩

/-- Settles O47: the two runs take the same branch (`command_pair_endings`), and each branch keeps the blocks
indistinguishable. -/
theorem unloadedStorageUnobservable : Obligations.UnloadedStorageUnobservable := by
  intro s u t v hsu hr hcfg hin hresps ht hv
  rcases step_cases s with ⟨hi, hx⟩ | ⟨c, rest, hi, hx⟩ | ⟨rest, hi, hx⟩
  · cases hx.symm.trans ht
    cases (step_idle (hin.symm.trans hi)).symm.trans hv
    exact ⟨hsu, hresps, hcfg, hin⟩
  · rw [hx] at ht
    rw [step_command (hin.symm.trans hi)] at hv
    have hends := command_pair_endings (s := { s with inputs := rest }) (u := { u with inputs := rest }) hsu.err
      hsu.permittedInFault_eq hsu.precondition_eq ht hv
    rcases hends with ⟨rfl, rfl⟩ | ⟨f, -, rfl, rfl⟩ | ⟨i, b, ok, data, b', ok', data', -, ha, he, rfl, he', rfl⟩
    · exact ⟨hsu, by simp [hresps, hsu.err], hcfg, rfl⟩
    · exact ⟨hsu.faulted f, by simp [hresps], hcfg, rfl⟩
    · obtain ⟨hb, rfl, rfl⟩ := he.indistinguishable hsu hr hcfg ha he'
      exact ⟨hb, by simp [hresps, hb.err], hcfg, rfl⟩
  · cases hx.symm.trans ht
    cases (step_reset (hin.symm.trans hi)).symm.trans hv
    exact ⟨.cleared _ _, hresps, hcfg, rfl⟩

end Sys2Proof.Machine

namespace Sys2Proof.Safety

open Sys2Proof.Machine

/-- Settles O55: a fault is the phase FAULT; without one `END` is not `UNKNOWN`, and a valid digest is one of a resolved
record. -/
theorem phasesPartitionReachableStates : Obligations.PhasesPartitionReachableStates := by
  intro b h
  have unique : ∀ p : PhaseName, (∀ q, b.inPhase q = true ↔ q = p) →
      ∃ p, b.inPhase p = true ∧ ∀ q, b.inPhase q = true → q = p := fun p hp => ⟨p, (hp p).2 rfl, fun q => (hp q).1⟩
  cases herr : b.err with
  | some f => exact unique .fault fun q => by cases q <;> simp [Block.inPhase, herr]
  | none =>
    cases hend : b.endn with
    | unknown => exact absurd hend (h.endn_ne_unknown herr)
    | none =>
      have hd := h.dvalid_of_endn_none hend
      exact unique .loading fun q => by cases q <;> simp [Block.inPhase, herr, hend, hd]
    | native | swapped =>
      cases hd : b.dvalid with
      | false => exact unique .resolved fun q => by cases q <;> simp [Block.inPhase, herr, hend, hd]
      | true => exact unique .done fun q => by cases q <;> simp [Block.inPhase, herr, hend, hd]

end Sys2Proof.Safety

namespace Sys2Proof.Machine

open Sys2Proof.Safety

/-! ## Which commands write each register (R23 to R35) -/

/-- Every register in which `c` differs from `b` is one the command `i` may write; `none` is an illegal word. -/
structure ChangedOnlyBy (i : Option Instr) (b c : Block) : Prop where
  raw : c.raw ≠ b.raw → ∃ w, i = some (.ldw w)
  wcnt : c.wcnt ≠ b.wcnt → (∃ w, i = some (.ldw w)) ∨ i = some .rst
  mode : c.mode ≠ b.mode → (∃ m, i = some (.setmode m)) ∨ i = some .rst
  endn : c.endn ≠ b.endn → i = some .resolve ∨ i = some .rst
  password : c.tp ≠ b.tp ∨ c.plen ≠ b.plen ∨ c.trunc ≠ b.trunc → (∃ x, i = some (.pwb x)) ∨ i = some .rst
  digest : c.digest ≠ b.digest → i = some .hash
  digestFlags : c.dvalid ≠ b.dvalid ∨ c.zbyte ≠ b.zbyte → i = some .hash ∨ i = some .rst

theorem ChangedOnlyBy.refl (i : Option Instr) (b : Block) : ChangedOnlyBy i b b := by
  constructor <;> simp

/-- A fault that does not write `END` writes no register but `ERR` (R208). -/
theorem ChangedOnlyBy.faulted (i : Option Instr) (b : Block) {f : FaultKind} (hf : f ≠ .unknownEndianness) :
    ChangedOnlyBy i b (b.faulted f) := by
  constructor <;> simp [hf]

theorem Effect.changedOnlyBy {i : Instr} {s : State} {b : Block} {ok : Bool} {data : BitVec 16}
    (h : Effect i s b ok data) : ChangedOnlyBy (some i) s.toBlock b := by
  cases i with
  | setmode mode =>
    obtain ⟨m, -, rfl, -, -⟩ := h
    constructor <;> simp
  | resolve =>
    rcases h with ⟨-, rfl, -, -⟩ | ⟨-, o, -, rfl, -, -⟩ | ⟨-, -, rfl, -, -⟩
    · exact .faulted _ _ (by simp)
    · constructor <;> simp
    · constructor <;> simp
  | rds sel =>
    obtain ⟨-, rfl, -⟩ := h
    exact .refl _ _
  | rst | ldw _ | pwb _ | hash =>
    obtain ⟨rfl, -, -⟩ := h
    constructor <;> simp
  | nop | rdw _ | rdr _ | rdt _ | rdd _ =>
    obtain ⟨rfl, -, -⟩ := h
    exact .refl _ _

/-- An accepted word changes only what its command may write, and neither the configuration nor the count of resets. -/
theorem command_changedOnlyBy {c : CmdWord} {s t : State} (h : command c s = .next t) :
    ChangedOnlyBy (decode c) s.toBlock t.toBlock ∧ t.cfg = s.cfg ∧ t.resets = s.resets := by
  rcases command_endings h with ⟨-, rfl⟩ | ⟨f, -, hf, rfl⟩ | ⟨i, b, ok, data, hd, -, he, rfl⟩
  · exact ⟨.refl _ _, rfl, rfl⟩
  · exact ⟨.faulted _ _ (by rcases hf with rfl | rfl <;> simp), rfl, rfl⟩
  · exact ⟨hd ▸ he.changedOnlyBy, rfl, rfl⟩

/-- Settles O52: `command_changedOnlyBy`; a standing fault is kept by every word but `RST`. -/
theorem eachRegisterHasItsWriters : Obligations.EachRegisterHasItsWriters := by
  intro s t c rest hin h
  rw [step_command hin] at h
  obtain ⟨hb, hcfg, hresets⟩ := command_changedOnlyBy h
  refine ⟨hb.raw, hb.wcnt, hb.mode, hb.endn, hb.password, hb.digest, hb.digestFlags, fun hs hne => ?_, hcfg, hresets⟩
  by_contra hc
  exact hne (congrArg Block.err (command_inFault_block_kept (s := { s with inputs := rest }) hs hc h))

/-! ## Reads (R59) -/

/-- The read commands: `RDW`, `RDR`, `RDT`, `RDD` and `RDS` (R59). -/
def IsRead (i : Instr) : Prop :=
  (∃ idx, i = .rdw idx) ∨ (∃ idx, i = .rdr idx) ∨ (∃ idx, i = .rdt idx) ∨ (∃ idx, i = .rdd idx) ∨ ∃ sel, i = .rds sel

/-- The data a read command answers when it executes; `none` for a command that is no read, and for `RDS 3`. -/
def readData? (i : Instr) (b : Block) : Option (BitVec 16) :=
  match i with
  | .rds sel => b.status? sel
  | .rdw idx => some (b.rawAt idx)
  | .rdr idx => some (b.resAt idx)
  | .rdt idx => some ((b.tpAt idx).setWidth 16)
  | .rdd idx => some ((b.digestAt idx).setWidth 16)
  | .nop | .rst | .setmode _ | .ldw _ | .resolve | .pwb _ | .hash => none

/-- An admitted read answers its data and leaves the block unchanged. -/
theorem exec_read {i : Instr} {s : State} {data : BitVec 16} (hi : IsRead i) (ha : Admitted i s.toBlock)
    (hd : readData? i s.toBlock = some data) : exec i s = .next (dataGiven s data) := by
  rcases hi with ⟨idx, rfl⟩ | ⟨idx, rfl⟩ | ⟨idx, rfl⟩ | ⟨idx, rfl⟩ | ⟨sel, rfl⟩
  · exact Option.some.inj hd ▸ execRdw_run ha
  · exact Option.some.inj hd ▸ execRdr_run ha
  · exact Option.some.inj hd ▸ execRdt_run ha
  · exact Option.some.inj hd ▸ execRdd_run ha
  · exact execRds_run hd

/-- Stage 4 of a read (R12). -/
theorem Effect.of_read {i : Instr} {s : State} {b : Block} {ok : Bool} {data : BitVec 16} (hi : IsRead i)
    (h : Effect i s b ok data) : readData? i s.toBlock = some data ∧ b = s.toBlock ∧ ok = true := by
  cases i with
  | rds _ => exact h
  | rdw _ | rdr _ | rdt _ | rdd _ =>
    obtain ⟨rfl, rfl, rfl⟩ := h
    exact ⟨rfl, rfl, rfl⟩
  | nop | rst | setmode _ | ldw _ | resolve | pwb _ | hash => simp [IsRead] at hi

/-- The one read that is no command. -/
theorem IsRead.eq_rds_three {i : Instr} (hi : IsRead i) (hw : i.wf = false) : i = .rds 3#2 := by
  cases i with
  | rds sel => simpa [Instr.wf] using hw
  | setmode _ => simp [IsRead] at hi
  | nop | rst | ldw _ | resolve | rdw _ | rdr _ | pwb _ | rdt _ | hash | rdd _ => simp [Instr.wf] at hw

/-- `RDS 3` acts as an illegal word, which ends with `ok = 0` (log 11). -/
theorem exec_rds_three (s : State) : ∃ b, exec (.rds 3#2) s = .next (s.answered b false 0#16) := by
  have hx : exec (.rds 3#2) s = illegalWord s := rfl
  by_cases hs : s.err = none
  · exact ⟨_, hx.trans (illegalWord_eq_faultTaken hs)⟩
  · exact ⟨_, hx.trans (illegalWord_eq_refusalGiven hs)⟩

/-- A read that answers `ok = 1` was admitted, and answered its data. -/
theorem exec_read_ok {i : Instr} {s t : State} {r : RespWord} (hi : IsRead i) (h : exec i s = .next t)
    (hr : t.resps = s.resps ++ [r]) (hok : respOk r = true) :
    Admitted i s.toBlock ∧ ∃ data, readData? i s.toBlock = some data ∧ t = dataGiven s data := by
  have not_ok : ∀ {b : Block}, exec i s ≠ .next (s.answered b false 0#16) := by
    intro b hx
    cases hx.symm.trans h
    obtain rfl : response b.err false 0#16 = r := by simpa using hr
    simp [respOk_response] at hok
  have hw : i.wf = true := by
    by_contra hw
    obtain rfl := hi.eq_rds_three (Bool.not_eq_true _ ▸ hw)
    obtain ⟨b, hx⟩ := exec_rds_three s
    exact not_ok hx
  rcases exec_cases hw s with ⟨-, -, hx⟩ | ⟨-, -, hx⟩ | ⟨ha, b, ok, data, he, hx⟩
  · exact absurd hx not_ok
  · exact absurd hx not_ok
  · obtain ⟨hd, rfl, rfl⟩ := he.of_read hi
    cases hx.symm.trans h
    exact ⟨ha, data, hd, rfl⟩

/-- Settles O53: the block after a read that executed is the block before, so the read is admitted again with the same
data. -/
theorem readsAreIdempotent : Obligations.ReadsAreIdempotent := by
  intro i s t r hi h hr hok
  obtain ⟨ha, data, hd, rfl⟩ := exec_read_ok hi h hr hok
  obtain rfl : response s.err true data = r := by simpa [dataGiven] using hr
  exact ⟨rfl, _, exec_read (s := dataGiven s data) hi ha hd, rfl, rfl⟩

/-! ## The fields of a response word and of `FLAGS` (R36, R71) -/

theorem respErr_response (e : Option FaultKind) (ok : Bool) (data : BitVec 16) :
    respErr (response e ok data) = errCode e := by
  apply BitVec.eq_of_getLsbD_eq
  intro i hi
  simp [respErr, response, hi, show 24 + i < 32 by omega, show 24 + i - 16 ≠ 0 by omega,
    BitVec.getLsbD_of_ge data (24 + i) (by omega)]

theorem respZero_response (e : Option FaultKind) (ok : Bool) (data : BitVec 16) : respZero (response e ok data) = 0#7 := by
  apply BitVec.eq_of_getLsbD_eq
  intro i hi
  simp [respZero, response, hi, show 17 + i < 24 by omega, show 17 + i - 16 ≠ 0 by omega,
    BitVec.getLsbD_of_ge data (17 + i) (by omega)]

theorem respData_response (e : Option FaultKind) (ok : Bool) (data : BitVec 16) : respData (response e ok data) = data := by
  apply BitVec.eq_of_getLsbD_eq
  intro i hi
  simp [respData, response, hi, show i < 32 by omega, show i < 24 by omega]

/-- Settles O12: the four fields one by one; the codes are R200's. -/
theorem responseWordFields : Obligations.ResponseWordFields :=
  ⟨fun e ok data => ⟨respErr_response e ok data, respZero_response e ok data, respOk_response e ok data,
    respData_response e ok data⟩, rfl, rfl, rfl, rfl, rfl⟩

/-- Each field of `FLAGS` read back from its place (R36). -/
theorem Block.flags_fields (b : Block) :
    b.flags.extractLsb' 0 2 = b.mode.bits ∧ b.flags.extractLsb' 2 2 = b.endn.bits ∧ b.flags.getLsbD 4 = b.dvalid ∧
      b.flags.getLsbD 5 = b.zbyte ∧ b.flags.getLsbD 6 = b.trunc ∧ b.flags.extractLsb' 7 9 = 0#9 := by
  unfold Block.flags
  generalize b.mode.bits = mode, b.endn.bits = endn, b.dvalid = dvalid, b.zbyte = zbyte, b.trunc = trunc
  revert mode endn dvalid zbyte trunc
  decide

/-- Settles O17: `Block.flags_fields`; the codes are R25's and R26's. -/
theorem flagsLayout : Obligations.FlagsLayout :=
  ⟨Block.flags_fields, rfl, rfl, rfl, rfl, rfl, rfl, rfl⟩

/-! ## No partial output (R215) -/

/-- `LDW` does not read `DIGEST`. -/
theorem Block.loadWord_withDigest (b : Block) (d : Vector Byte 32) (w : IdWord) :
    ({ b with digest := d } : Block).loadWord w = { b.loadWord w with digest := d } := by
  rcases lt_trichotomy b.wcnt.toNat 256 with h | h | h
  · rw [Block.loadWord_of_lt w h, Block.loadWord_of_lt (b := { b with digest := d }) w h]
  · rw [Block.loadWord_of_eq w h, Block.loadWord_of_eq (b := { b with digest := d }) w h]
  · rw [Block.loadWord_of_gt w h, Block.loadWord_of_gt (b := { b with digest := d }) w h]

/-- `PWB` does not read `DIGEST`. -/
theorem Block.pushByte_withDigest (b : Block) (d : Vector Byte 32) (o : DigitOrder) (x : Byte) :
    ({ b with digest := d } : Block).pushByte o x = { b.pushByte o x with digest := d } := by
  cases hv : mapByte o x with
  | none => rw [Block.pushByte_of_none hv, Block.pushByte_of_none hv]
  | some v =>
    rcases lt_or_ge b.plen.toNat 64 with h | h
    · rw [Block.pushByte_of_lt hv h, Block.pushByte_of_lt (b := { b with digest := d }) hv h]
    · rw [Block.pushByte_of_ge hv h, Block.pushByte_of_ge (b := { b with digest := d }) hv h]

/-- Stage 4 of a command writes the same whatever `DIGEST` is, and reads the same unless it is `RDD`. -/
theorem Effect.withDigest {i : Instr} {s : State} {d : Vector Byte 32} {b b' : Block} {ok ok' : Bool}
    {data data' : BitVec 16} (h : Effect i s b ok data) (h' : Effect i { s with digest := d } b' ok' data') :
    { b' with digest := b.digest } = b ∧ ok' = ok ∧ ((∀ idx, i ≠ .rdd idx) → data' = data) := by
  cases i with
  | setmode mode =>
    obtain ⟨m, hm, rfl, rfl, rfl⟩ := h
    obtain ⟨m', hm', rfl, rfl, rfl⟩ := h'
    obtain rfl : m = m' := Option.some.inj (hm.symm.trans hm')
    exact ⟨rfl, rfl, fun _ => rfl⟩
  | rds sel =>
    obtain ⟨hd, rfl, rfl⟩ := h
    obtain ⟨hd', rfl, rfl⟩ := h'
    exact ⟨rfl, rfl, fun _ => Option.some.inj (hd'.symm.trans hd)⟩
  | ldw w =>
    obtain ⟨rfl, rfl, rfl⟩ := h
    obtain ⟨rfl, rfl, rfl⟩ := h'
    exact ⟨by rw [Block.loadWord_withDigest], rfl, fun _ => rfl⟩
  | resolve =>
    by_cases hc : s.wcnt = 256#9
    · cases ho : s.toBlock.orderToFix with
      | some o =>
        obtain ⟨rfl, rfl, rfl⟩ := h.resolve_run hc ho
        obtain ⟨rfl, rfl, rfl⟩ := h'.resolve_run hc ho
        exact ⟨rfl, rfl, fun _ => rfl⟩
      | none =>
        obtain ⟨rfl, rfl, rfl⟩ := h.resolve_inconclusive hc ho
        obtain ⟨rfl, rfl, rfl⟩ := h'.resolve_inconclusive hc ho
        exact ⟨rfl, rfl, fun _ => rfl⟩
    · obtain ⟨rfl, rfl, rfl⟩ := h.resolve_miscounted hc
      obtain ⟨rfl, rfl, rfl⟩ := h'.resolve_miscounted hc
      exact ⟨rfl, rfl, fun _ => rfl⟩
  | pwb x =>
    obtain ⟨rfl, rfl, rfl⟩ := h
    obtain ⟨rfl, rfl, rfl⟩ := h'
    exact ⟨by rw [Block.pushByte_withDigest], rfl, fun _ => rfl⟩
  | rdd idx =>
    obtain ⟨rfl, rfl, rfl⟩ := h
    obtain ⟨rfl, rfl, rfl⟩ := h'
    exact ⟨rfl, rfl, fun hi => absurd rfl (hi idx)⟩
  | nop | rst | rdw _ | rdr _ | rdt _ | hash =>
    obtain ⟨rfl, rfl, rfl⟩ := h
    obtain ⟨rfl, rfl, rfl⟩ := h'
    exact ⟨rfl, rfl, fun _ => rfl⟩

/-- One word in two states that differ in `DIGEST` alone. -/
theorem command_withDigest {c : CmdWord} {s t u : State} {d : Vector Byte 32} (ht : command c s = .next t)
    (hu : command c { s with digest := d } = .next u) :
    { u.toBlock with digest := t.digest } = t.toBlock ∧ u.inputs = t.inputs ∧
      (¬ ((∃ idx, decode c = some (.rdd idx)) ∧ s.err = none ∧ s.dvalid = true) → u.resps = t.resps) := by
  have hends := command_pair_endings (s := s) (u := { s with digest := d }) rfl
    (fun i => (permittedInFault_digest i s.toBlock d).symm) (fun i => (precondition_digest i s.toBlock d).symm) ht hu
  rcases hends with ⟨rfl, rfl⟩ | ⟨f, -, rfl, rfl⟩ | ⟨i, b, ok, data, b', ok', data', hd, ha, he, rfl, he', rfl⟩
  · exact ⟨rfl, rfl, fun _ => rfl⟩
  · exact ⟨rfl, rfl, fun _ => rfl⟩
  · obtain ⟨hb, rfl, hdata⟩ := he.withDigest he'
    refine ⟨hb, rfl, fun hrdd => ?_⟩
    have herr : b'.err = b.err := by rw [← hb]
    have hi : ∀ idx, i ≠ .rdd idx := by
      rintro idx rfl
      exact hrdd ⟨⟨idx, hd⟩, ha.of_not_permitted rfl⟩
    simp [hdata hi, herr]

/-- Only a `HASH` that runs sets `DVALID`, and it leaves the digest of the password and the record. -/
theorem command_sets_dvalid {c : CmdWord} {s t : State} (h : command c s = .next t) (hs : s.dvalid = false)
    (ht : t.dvalid = true) : c = 0x30000000#32 ∧ s.err = none ∧ t.digest = s.toBlock.digestOf := by
  have hne : t.dvalid ≠ s.dvalid := by rw [hs, ht]; decide
  rcases (command_changedOnlyBy h).1.digestFlags (.inl hne) with hd | hd
  · refine ⟨(encode_of_decode hd).symm, ?_⟩
    rcases command_endings h with ⟨-, rfl⟩ | ⟨f, -, -, rfl⟩ | ⟨i, b, ok, data, hd', ha, he, rfl⟩
    · exact absurd rfl hne
    · exact absurd rfl hne
    · obtain rfl : .hash = i := Option.some.inj (hd.symm.trans hd')
      obtain ⟨rfl, -, -⟩ := he
      exact ⟨(ha.of_not_permitted rfl).1, rfl⟩
  · obtain rfl := (decode_eq_rst_iff c).1 hd
    cases (command_rst s).symm.trans h
    simp at ht

/-- `RDD` answers `ok = 1` exactly without a fault and with a valid digest, and otherwise carries no data. -/
theorem exec_rdd_ending (idx : BitVec 5) (s : State) : ∃ t r, exec (.rdd idx) s = .next t ∧ t.resps = s.resps ++ [r] ∧
    (respOk r = true ↔ s.err = none ∧ s.dvalid = true) ∧ (respOk r = false → respData r = 0#16) := by
  by_cases hs : s.err = none
  · cases hd : s.dvalid with
    | true => exact ⟨_, _, exec_rdd idx hs hd, rfl, by simp [respOk_response, hs], by simp [respOk_response]⟩
    | false =>
      exact ⟨_, _, exec_sequenceError rfl hs hd, rfl, by simp [respOk_response],
        fun _ => respData_response _ _ _⟩
  · exact ⟨_, _, exec_refused rfl hs rfl, rfl, by simp [respOk_response, hs], fun _ => respData_response _ _ _⟩

/-- Settles O54: `command_withDigest`, `command_sets_dvalid` (an idle step and a reset set no `DVALID`) and
`exec_rdd_ending`. -/
theorem noPartialOutput : Obligations.NoPartialOutput := by
  refine ⟨fun s t u d c rest hin ht hu => ?_, fun s t h hs ht => ?_, fun s c rest idx hin hd => ?_⟩
  · rw [step_command hin] at ht
    rw [step_command (s := { s with digest := d }) hin] at hu
    exact command_withDigest (s := { s with inputs := rest }) ht hu
  · rcases step_cases s with ⟨-, hx⟩ | ⟨c, rest, hin, hx⟩ | ⟨rest, -, hx⟩
    · cases hx.symm.trans h
      simp [hs] at ht
    · obtain ⟨rfl, hend⟩ := command_sets_dvalid (s := { s with inputs := rest }) (hx.symm.trans h) hs ht
      exact ⟨⟨rest, hin⟩, hend⟩
    · cases hx.symm.trans h
      simp at ht
  · rw [step_command hin, command_of_decode hd]
    exact exec_rdd_ending idx { s with inputs := rest }

end Sys2Proof.Machine

namespace Sys2Proof.Machine

open Sys2Proof.Safety

/-! ## What a reset leaves (R39, R230) -/

theorem tp_of_cleared (b : Block) (i : Fin 64) : b.cleared.tp[i] = 0x00#8 := by
  simp

/-- Settles O8: a pulse of `rst_n` is `hardwareReset`, whose block is a cleared one. -/
theorem hardwareResetState : Obligations.HardwareResetState := fun _ _ hin =>
  ⟨_, step_reset hin, rfl, rfl, rfl, rfl, tp_of_cleared _, rfl, rfl, rfl, rfl, rfl, rfl, rfl⟩

/-- Settles O9: `State.reset` is a cleared block, in the phase LOADING. -/
theorem resetStateValues : Obligations.ResetStateValues :=
  ⟨rfl, rfl, rfl, tp_of_cleared State.reset.toBlock, rfl, rfl, rfl, rfl, rfl, rfl⟩

/-! ## The byte swap (R53) -/

theorem bswap16_bswap16 (w : IdWord) : bswap16 (bswap16 w) = w := by
  rw [bswap16, lowByte_bswap16, highByte_bswap16, highByte_append_lowByte]

/-- Settles O28: `bswap16` puts the two bytes together the other way round. -/
theorem byteSwapUndoesItself : Obligations.ByteSwapUndoesItself :=
  ⟨fun w => ⟨lowByte_bswap16 w, highByte_bswap16 w, bswap16_bswap16 w⟩, by decide, by decide, by decide⟩

/-! ## Detection (R117 to R120) -/

/-- `RESOLVE` of a full record in mode `DETECT` fixes the order the detector finds. -/
theorem exec_resolve_detected {s : State} {o : Order} (hs : s.err = none) (hend : s.endn = .none) (hc : s.wcnt = 256#9)
    (hm : s.mode = .detect) (ho : detectOrder s.raw = some o) :
    exec .resolve s = .next (s.answered { s.toBlock with endn := o } true 0#16) :=
  execResolve_run (admitted_resolve hs hend) hc (by rw [Block.orderToFix, hm]; exact ho)

/-- Where the detector finds none, it is an `UnknownEndianness` fault. -/
theorem exec_resolve_undetected {s : State} (hs : s.err = none) (hend : s.endn = .none) (hc : s.wcnt = 256#9)
    (hm : s.mode = .detect) (ho : detectOrder s.raw = none) : exec .resolve s = .next (faultTaken s .unknownEndianness) :=
  execResolve_inconclusive (admitted_resolve hs hend) hc (by rw [Block.orderToFix, hm]; exact ho)

theorem probeUsable_iff (v : Byte) (w : IdWord) : probeUsable v w = true ↔ ¬ (highByte w = v ↔ lowByte w = v) := by
  rw [← probeUsable_eq_false_iff, Bool.not_eq_false]

/-- A conclusive word 47 decides by its high byte (R117). -/
theorem detectOrder_word47 {raw : Vector IdWord 256} (h : probeUsable Config.probe1Val raw[47] = true) :
    detectOrder raw = if highByte raw[47] = Config.probe1Val then some .native else some .swapped := by
  rw [detectOrder, if_pos h]

/-- With word 47 inconclusive, a conclusive word 255 decides by its low byte (R118, D12). -/
theorem detectOrder_word255 {raw : Vector IdWord 256} (h47 : probeUsable Config.probe1Val raw[47] = false)
    (h : probeUsable Config.probe2Val raw[255] = true) :
    detectOrder raw = if lowByte raw[255] = Config.probe2Val then some .native else some .swapped := by
  rw [detectOrder, h47, if_neg Bool.false_ne_true, if_pos h]

/-- Settles O23: the two probes in their order, then `detectOrder_eq_none_iff`. -/
theorem resolveDetect : Obligations.ResolveDetect := by
  rintro s hi47 lo47 hi255 lo255 hs hend hc hm rfl rfl rfl rfl
  have detected {o : Order} (ho : detectOrder s.raw = some o) := exec_resolve_detected hs hend hc hm ho
  refine ⟨fun hhi hlo => detected ?_, fun hhi hlo => detected ?_, fun h47 => ?_⟩
  · exact (detectOrder_word47 ((probeUsable_iff _ _).2 fun h => hlo (h.1 hhi))).trans (if_pos hhi)
  · exact (detectOrder_word47 ((probeUsable_iff _ _).2 fun h => hhi (h.2 hlo))).trans (if_neg hhi)
  · have hp : probeUsable Config.probe1Val s.raw[47] = false := (probeUsable_eq_false_iff _ _).2 h47
    refine ⟨fun hlo hhi => detected ?_, fun hlo hhi => detected ?_, fun h255 => ?_⟩
    · exact (detectOrder_word255 hp ((probeUsable_iff _ _).2 fun h => hhi (h.2 hlo))).trans (if_pos hlo)
    · exact (detectOrder_word255 hp ((probeUsable_iff _ _).2 fun h => hlo (h.1 hhi))).trans (if_neg hlo)
    · have hq : probeUsable Config.probe2Val s.raw[255] = false := (probeUsable_eq_false_iff _ _).2 h255.symm
      exact exec_resolve_undetected hs hend hc hm ((detectOrder_eq_none_iff _).2 ⟨hp, hq⟩)

/-- The resolved order of the byte-swapped copy. -/
def Order.opposite : Order → Order
  | .native => .swapped
  | .swapped => .native
  | .none => .none
  | .unknown => .unknown

theorem probeUsable_bswap16 (v : Byte) (w : IdWord) : probeUsable v (bswap16 w) = probeUsable v w := by
  rw [probeUsable, lowByte_bswap16, highByte_bswap16, bne_comm, probeUsable]

/-- The detector finds the opposite order in the byte-swapped copy, and none where it finds none (R120). -/
theorem detectOrder_map_bswap16 (raw : Vector IdWord 256) :
    detectOrder (raw.map bswap16) = (detectOrder raw).map Order.opposite := by
  have h47 : (raw.map bswap16)[47] = bswap16 raw[47] := Vector.getElem_map ..
  have h255 : (raw.map bswap16)[255] = bswap16 raw[255] := Vector.getElem_map ..
  cases hp : probeUsable Config.probe1Val raw[47] with
  | true =>
    have hbytes := (probeUsable_iff _ _).1 hp
    rw [detectOrder_word47 hp, detectOrder_word47 (by rw [h47, probeUsable_bswap16, hp]), h47, highByte_bswap16]
    by_cases hhi : highByte raw[47] = Config.probe1Val
    · have hlo : ¬ lowByte raw[47] = Config.probe1Val := by tauto
      rw [if_pos hhi, if_neg hlo]; rfl
    · have hlo : lowByte raw[47] = Config.probe1Val := by tauto
      rw [if_neg hhi, if_pos hlo]; rfl
  | false =>
    have hp' : probeUsable Config.probe1Val (raw.map bswap16)[47] = false := by rw [h47, probeUsable_bswap16, hp]
    cases hq : probeUsable Config.probe2Val raw[255] with
    | true =>
      have hbytes := (probeUsable_iff _ _).1 hq
      rw [detectOrder_word255 hp hq, detectOrder_word255 hp' (by rw [h255, probeUsable_bswap16, hq]), h255,
        lowByte_bswap16]
      by_cases hlo : lowByte raw[255] = Config.probe2Val
      · have hhi : ¬ highByte raw[255] = Config.probe2Val := by tauto
        rw [if_pos hlo, if_neg hhi]; rfl
      · have hhi : highByte raw[255] = Config.probe2Val := by tauto
        rw [if_neg hlo, if_pos hhi]; rfl
    | false =>
      have hq' : probeUsable Config.probe2Val (raw.map bswap16)[255] = false := by rw [h255, probeUsable_bswap16, hq]
      rw [(detectOrder_eq_none_iff _).2 ⟨hp, hq⟩, (detectOrder_eq_none_iff _).2 ⟨hp', hq'⟩]
      rfl

/-- The copy read in the opposite order is the record read in its own. -/
theorem resIn_opposite_map_bswap16 (o : Order) (raw : Vector IdWord 256) (i : Fin 256) :
    resIn o.opposite (raw.map bswap16) i = resIn o raw i := by
  cases o with
  | native => simp [Order.opposite, bswap16_bswap16]
  | swapped => simp [Order.opposite]
  | none | unknown => rfl

/-- Settles O24: `detectOrder_map_bswap16` for the order, `resIn_opposite_map_bswap16` for the words. -/
theorem swappedCopyResolvesAlike : Obligations.SwappedCopyResolvesAlike := by
  rintro s _ rfl hs hend hc
  refine ⟨?_, fun hm t ht => ?_, ?_⟩
  · simp [Function.comp_def, bswap16_bswap16]
  · have hcopy := detectOrder_map_bswap16 s.raw
    cases ho : detectOrder s.raw with
    | some o =>
      rw [ho] at hcopy
      cases (exec_resolve_detected hs hend hc hm ho).symm.trans ht
      refine ⟨fun _ => ⟨_, exec_resolve_detected (s := { s with raw := s.raw.map bswap16 }) hs hend hc hm hcopy, hs, ?_,
        fun i => (resIn_opposite_map_bswap16 o s.raw i).symm⟩, fun herr => ?_⟩
      · rcases detectOrder_resolves ho with rfl | rfl
        · exact .inl ⟨rfl, rfl⟩
        · exact .inr ⟨rfl, rfl⟩
      · simp [hs] at herr
    | none =>
      rw [ho] at hcopy
      cases (exec_resolve_undetected hs hend hc hm ho).symm.trans ht
      exact ⟨fun herr => (nomatch herr),
        fun _ => ⟨_, exec_resolve_undetected (s := { s with raw := s.raw.map bswap16 }) hs hend hc hm hcopy, rfl⟩⟩
  · exact ⟨_, _, execResolve_run (s := { s with mode := .reverse }) (admitted_resolve hs hend) hc rfl,
      execResolve_run (s := { s with raw := s.raw.map bswap16, mode := .native }) (admitted_resolve hs hend) hc rfl,
      fun i => (resIn_opposite_map_bswap16 .swapped s.raw i).symm⟩

end Sys2Proof.Machine

namespace Sys2Proof.Machine

open Sys2Proof.Safety

/-! ## Runs of one command (R23, R61, R148) -/

/-- A run of commands that each complete with a write `g` of their own operand makes these writes in order. -/
theorem execAll_map {α : Type} {f : α → Instr} {g : DigitOrder → Block → α → Block} {P : Block → Prop}
    (hkept : ∀ d b x, P b → P (g d b x))
    (hrun : ∀ s x, P s.toBlock → exec (f x) s = .next (s.answered (g s.cfg.digitOrder s.toBlock x) true 0#16))
    (xs : List α) (s : State) (hs : P s.toBlock) :
    ∃ t, execAll (xs.map f) s = .next t ∧ t.toBlock = xs.foldl (g s.cfg.digitOrder) s.toBlock := by
  induction xs generalizing s with
  | nil => exact ⟨s, rfl, rfl⟩
  | cons x xs ih =>
    rw [List.map_cons, execAll, hrun s x hs]
    exact ih (s.answered (g s.cfg.digitOrder s.toBlock x) true 0#16) (hkept _ _ _ hs)

/-- A vector that holds the list `xs` and a default above it, written at the list's length, holds the longer list. -/
theorem getElem_setIfInBounds_append {α : Type} {n : Nat} {v : Vector α n} {xs : List α} {dflt : α} {i : Nat} {hi : i < n}
    (h : v[i] = xs.getD i dflt) (x : α) : (v.setIfInBounds xs.length x)[i] = (xs ++ [x]).getD i dflt := by
  rw [Vector.getElem_setIfInBounds]
  rcases lt_trichotomy i xs.length with hlt | rfl | hgt
  · rw [if_neg hlt.ne', h, List.getD_append _ _ _ _ hlt]
  · simp
  · rw [if_neg hgt.ne, h, List.getD_eq_default _ _ hgt.le, List.getD_eq_default]
    simpa using hgt

/-- What the words `ws` offered to a block `b` with `WCNT` = 0 make of it. -/
structure Loaded (ws : List IdWord) (b c : Block) : Prop where
  count : c.wcnt.toNat = min ws.length 257
  words : ∀ i : Fin 256, c.raw[i] = ws.getD i.val b.raw[i]
  frame : { c with raw := b.raw, wcnt := b.wcnt } = b

/-- One word more, in each of the three cases of `LDW` (R112). -/
theorem Loaded.loadWord {ws : List IdWord} {b c : Block} (h : Loaded ws b c) (w : IdWord) :
    Loaded (ws ++ [w]) b (c.loadWord w) := by
  obtain ⟨hcount, hwords, hframe⟩ := h
  have hlen : (ws ++ [w]).length = ws.length + 1 := List.length_append
  have kept (hfull : 256 ≤ ws.length) (i : Fin 256) : c.raw[i] = (ws ++ [w]).getD i.val b.raw[i] := by
    rw [hwords i, List.getD_append _ _ _ _ (by omega)]
  rcases lt_trichotomy c.wcnt.toNat 256 with hlt | heq | hgt
  · have hplace : c.wcnt.toNat = ws.length := by omega
    rw [Block.loadWord_of_lt w hlt, hplace]
    refine ⟨?_, fun i => getElem_setIfInBounds_append (hwords i) w, hframe⟩
    change (c.wcnt + 1#9).toNat = _
    bv_omega
  · rw [Block.loadWord_of_eq w heq]
    refine ⟨?_, kept (by omega), hframe⟩
    change 257 = _
    omega
  · rw [Block.loadWord_of_gt w hgt]
    exact ⟨by omega, kept (by omega), hframe⟩

theorem loaded_foldl (ws : List IdWord) {b : Block} (hb : b.wcnt = 0#9) : Loaded ws b (ws.foldl Block.loadWord b) := by
  induction ws using List.reverseRecOn with
  | nil => exact ⟨by rw [List.foldl_nil, hb]; rfl, fun _ => rfl, rfl⟩
  | append_singleton ws w ih =>
    rw [List.foldl_append]
    exact ih.loadWord w

/-- Settles O19: the run is a fold of `Block.loadWord`, and `loaded_foldl` says what that leaves. -/
theorem loadedRecordIsTheWordsOffered : Obligations.LoadedRecordIsTheWordsOffered := by
  intro s ws hs hend hc
  obtain ⟨t, hx, ht⟩ := execAll_map (f := .ldw) (g := fun _ => Block.loadWord) (P := fun b => b.err = none ∧ b.endn = .none)
    (fun _ b w hb => by simpa using hb) (fun s w hs => exec_ldw w hs.1 hs.2) ws s ⟨hs, hend⟩
  obtain ⟨hcount, hwords, hframe⟩ := loaded_foldl ws (b := s.toBlock) hc
  rw [← ht] at hcount hwords hframe
  refine ⟨t, hx, hcount, fun i => ?_, hframe⟩
  rw [hwords i]
  split_ifs with hi
  · exact List.getD_eq_getElem _ _ hi
  · exact List.getD_eq_default _ _ (by omega)

/-- What the mapped bytes `m` pushed to a block `b` with an empty password make of it. -/
structure Pushed (m : List Byte) (b c : Block) : Prop where
  length : c.plen.toNat = min m.length 64
  bytes : ∀ i : Fin 64, c.tp[i] = m.getD i.val 0x00#8
  trunc : c.trunc = true ↔ 64 < m.length
  frame : { c with tp := b.tp, plen := b.plen, trunc := b.trunc } = b

/-- One byte more, in each of the three cases of `PWB` (R144, R145). -/
theorem Pushed.pushByte {m : List Byte} {b c : Block} (h : Pushed m b c) (d : DigitOrder) (x : Byte) :
    Pushed (m ++ (mapByte d x).toList) b (c.pushByte d x) := by
  cases hv : mapByte d x with
  | none =>
    rw [Block.pushByte_of_none hv, Option.toList_none, List.append_nil]
    exact h
  | some v =>
    obtain ⟨hlength, hbytes, htrunc, hframe⟩ := h
    have hlen : (m ++ [v]).length = m.length + 1 := List.length_append
    rw [Option.toList_some]
    rcases lt_or_ge c.plen.toNat 64 with hlt | hge
    · have hplace : c.plen.toNat = m.length := by omega
      rw [Block.pushByte_of_lt hv hlt, hplace]
      refine ⟨?_, fun i => getElem_setIfInBounds_append (hbytes i) v, htrunc.trans (by omega), hframe⟩
      change (c.plen + 1#7).toNat = _
      bv_omega
    · rw [Block.pushByte_of_ge hv hge]
      refine ⟨hlength.trans (by omega), fun i => ?_, by simp only [true_iff]; omega, hframe⟩
      rw [List.getD_append _ _ _ _ (by omega)]
      exact hbytes i

theorem pushed_foldl (d : DigitOrder) (p : List Byte) {b : Block} (hp : b.plen = 0#7) (htrunc : b.trunc = false)
    (htp : b.tp = Vector.replicate 64 0x00#8) :
    Pushed (p.filterMap (mapByte d)) b (p.foldl (fun c x => c.pushByte d x) b) := by
  induction p using List.reverseRecOn with
  | nil => exact ⟨by rw [List.foldl_nil, hp]; rfl, fun i => by simp [htp], by simp [htrunc], rfl⟩
  | append_singleton p x ih =>
    have hone : [x].filterMap (mapByte d) = (mapByte d x).toList := by cases h : mapByte d x <;> simp [h]
    rw [List.foldl_append, List.filterMap_append, hone]
    exact ih.pushByte d x

/-- Settles O33: the run is a fold of `Block.pushByte`, and `pushed_foldl` says what that leaves. -/
theorem passwordRunTranslates : Obligations.PasswordRunTranslates := by
  intro s p hs hd hp htrunc htp
  obtain ⟨t, hx, ht⟩ := execAll_map (f := .pwb) (g := fun d b x => b.pushByte d x)
    (P := fun b => b.err = none ∧ b.dvalid = false)
    (fun _ b x hb => by simpa using hb) (fun s x hs => exec_pwb x hs.1 hs.2) p s ⟨hs, hd⟩
  obtain ⟨hlength, hbytes, htrunc', hframe⟩ := pushed_foldl s.cfg.digitOrder p (b := s.toBlock) hp htrunc htp
  rw [← ht] at hlength hbytes htrunc' hframe
  exact ⟨t, _, hx, rfl, hlength, hbytes, htrunc', hframe⟩

end Sys2Proof.Machine

namespace Sys2Proof.Machine

open Sys2Proof.Safety

/-! ## What the digest depends on (R160, R170) -/

theorem fieldIndices_range : ∀ i ∈ fieldIndices, 10 ≤ i.val ∧ i.val ≤ 19 ∨ 27 ≤ i.val ∧ i.val ≤ 46 := by
  simp [fieldIndices]

/-- The digest is one of `TP` and of the resolved words at the indices of `FIELDS`. -/
theorem Block.digestOf_congr {b c : Block} (htp : b.tp = c.tp)
    (hres : ∀ i : Fin 256, (10 ≤ i.val ∧ i.val ≤ 19 ∨ 27 ≤ i.val ∧ i.val ≤ 46) → b.res i = c.res i) :
    b.digestOf = c.digestOf := by
  have hwords : fieldIndices.map b.res = fieldIndices.map c.res :=
    List.map_congr_left fun i hi => hres i (fieldIndices_range i hi)
  rw [Block.digestOf, Block.digestOf, Block.secondMessage, Block.secondMessage, Block.firstHash, Block.firstHash,
    Block.fields_eq, Block.fields_eq, htp, hwords]

/-- Settles O38: `exec_hash` stores `digestOf` and its flag, and `digestOf` is the same in both. -/
theorem digestDependsOnInputsOnly : Obligations.DigestDependsOnInputsOnly := by
  intro s u hs hu htp hres
  have hdigest : s.toBlock.digestOf = u.toBlock.digestOf := Block.digestOf_congr htp hres
  exact ⟨_, _, exec_hash hs, exec_hash hu, hdigest, congrArg hasZeroByte hdigest⟩

/-! ## The padding of SHA-256 (R185) -/

theorem length_be64 (n : Nat) : (be64 n).length = 8 := rfl

theorem length_padMessage (m : List Byte) : (padMessage m).length = m.length + 1 + padZeros m.length + 8 := by
  simp only [padMessage, List.length_append, List.length_replicate, List.length_singleton, length_be64]

/-- Byte `j` of `be64(n)`, most significant first. -/
theorem be64_getElem? (n : Nat) (j : Fin 8) : (be64 n)[j.val]? = some (BitVec.ofNat 8 (n / 256 ^ (7 - j.val))) := by
  have hshift : ∀ k : Nat, n >>> (8 * k) = n / 256 ^ k := fun k => by
    rw [Nat.shiftRight_eq_div_pow, Nat.pow_mul]
  rw [← hshift]
  fin_cases j <;> rfl

/-- Settles O40: `padZeros` is the only `k` below 64 that fills the last block. -/
theorem paddingShape : Obligations.PaddingShape := by
  refine fun m => ⟨padZeros m.length, rfl, ?_, ?_, length_be64 _, be64_getElem? _, fun j hj => ?_⟩
  · exact Nat.mod_lt _ (by decide)
  · rw [length_padMessage, padZeros]
    omega
  · rw [padZeros] at hj
    omega

/-! ## The two hash calls (R169) -/

/-- The padding is a tail of its own, which the length alone determines. -/
theorem padMessage_eq_append (m : List Byte) :
    padMessage m = m ++ (0x80#8 :: (List.replicate (padZeros m.length) 0x00#8 ++ be64 (8 * m.length))) := by
  rw [padMessage, List.append_assoc, List.append_assoc]
  rfl

/-- A message whose padding fills two blocks takes two compressions (R189). -/
theorem sha256_of_two_blocks {m : List Byte} (h : (padMessage m).length = 128) :
    sha256 m = (compress (compress hashInit ((padMessage m).take 64)) ((padMessage m).drop 64)).bytes := by
  have hlast : ((padMessage m).drop 64).take 64 = (padMessage m).drop 64 :=
    List.take_of_length_le (by rw [List.length_drop, h])
  rw [sha256, hashBlocks, h]
  simp only [blocksOf, Nat.reduceDiv, List.foldl_cons, List.foldl_nil, hlast]

/-- Settles O39: the padding of either length fills two blocks, and is the same for every message of the length. -/
theorem hashCallsAreTwoCompressions : Obligations.HashCallsAreTwoCompressions := by
  refine ⟨fun m hm => ?_, fun m hm => ?_⟩
  · rw [sha256_of_two_blocks (by rw [length_padMessage, hm]; rfl), padMessage_eq_append, hm, List.take_left' hm,
      List.drop_left' hm]
    rfl
  · rw [sha256_of_two_blocks (by rw [length_padMessage, hm]; rfl), padMessage_eq_append, hm,
      List.take_append_of_le_length (by omega), List.drop_append_of_le_length (by omega), List.append_assoc,
      List.append_assoc]
    rfl

/-! ## The message schedule (R187) -/

theorem length_extendSchedule (n : Nat) (w : List ShaWord) : (extendSchedule n w).length = w.length + n := by
  induction n generalizing w with
  | zero => rfl
  | succ n ih => rw [extendSchedule, ih, List.length_append, List.length_singleton]; omega

/-- Extending a schedule keeps the words there are. -/
theorem extendSchedule_getD_of_lt {n t : Nat} {w : List ShaWord} (h : t < w.length) :
    (extendSchedule n w).getD t 0#32 = w.getD t 0#32 := by
  induction n generalizing w with
  | zero => rfl
  | succ n ih =>
    rw [extendSchedule, ih (by rw [List.length_append]; omega), List.getD_append _ _ _ _ h]

/-- Every word the extension adds is R187's sum of four before it. -/
theorem extendSchedule_getD_of_ge {n t : Nat} {w : List ShaWord} (h16 : 16 ≤ w.length) (hge : w.length ≤ t)
    (hlt : t < w.length + n) :
    (extendSchedule n w).getD t 0#32 =
      ssig1 ((extendSchedule n w).getD (t - 2) 0#32) + (extendSchedule n w).getD (t - 7) 0#32 +
        ssig0 ((extendSchedule n w).getD (t - 15) 0#32) + (extendSchedule n w).getD (t - 16) 0#32 := by
  induction n generalizing w with
  | zero => omega
  | succ n ih =>
    have hlen : (w ++ [nextScheduleWord w]).length = w.length + 1 := by rw [List.length_append, List.length_singleton]
    rw [extendSchedule]
    rcases Nat.eq_or_lt_of_le hge with rfl | hgt
    · have old : ∀ k, 1 ≤ k → k ≤ 16 → (extendSchedule n (w ++ [nextScheduleWord w])).getD (w.length - k) 0#32 =
          w.getD (w.length - k) 0#32 := fun k h1 hk => by
        rw [extendSchedule_getD_of_lt (by omega), List.getD_append _ _ _ _ (by omega)]
      rw [old 2 (by omega) (by omega), old 7 (by omega) (by omega), old 15 (by omega) (by omega),
        old 16 (by omega) (by omega), extendSchedule_getD_of_lt (by omega)]
      simp [nextScheduleWord]
    · exact ih (by omega) (by omega) (by omega)

/-- Settles O41: the schedule is an extension of the block by 48 words. -/
theorem scheduleRecurrence : Obligations.ScheduleRecurrence := by
  refine fun m hm => ⟨?_, fun t ht => extendSchedule_getD_of_lt (by omega), fun t h16 ht =>
    extendSchedule_getD_of_ge (by omega) (by omega) (by omega)⟩
  rw [schedule, length_extendSchedule, hm]

/-- Settles O42: two fixed messages, evaluated by the kernel. -/
theorem sha256ReferenceValues : Obligations.Sha256ReferenceValues := by
  unfold Obligations.Sha256ReferenceValues
  constructor <;> decide +kernel

end Sys2Proof.Machine
end
